-- ==== Sys2Proof/Word.lean ====
section
/-! DEFINITION. The word types of the Umamor unit, exact presented values, and vectors indexed by bit vectors. -/

namespace Sys2Proof

/-- A 32-bit register, itinerary word or FP32 code (R2). -/
abbrev Word := BitVec 32
/-- One byte of scratchpad. -/
abbrev Byte := BitVec 8
/-- A guest number 0-63 (R42). -/
abbrev GuestId := BitVec 6
/-- A row engine number 0-15 (Table 0-1). -/
abbrev EngineId := BitVec 4
/-- A vintage slot number 0-1,023 (R102). -/
abbrev SlotId := BitVec 10
/-- A page of the register window 0-15 (R240). -/
abbrev PageId := BitVec 4
/-- A 128-byte itinerary record, little-endian: bit 8k is bit 0 of byte k (R29). -/
abbrev Record := BitVec 1024
/-- One operand descriptor (Table 2-3). -/
abbrev Desc := BitVec 128

/-- An exact value as the output stage, the casks and the row turnaround know it (R77, R141): NaN, an infinity, or
the rational `num / den` with its sign kept apart, so that a zero keeps its sign. The denominator is never 0. -/
inductive XVal where
  | nan
  | inf (neg : Bool)
  | fin (neg : Bool) (num den : Nat)
deriving DecidableEq, Repr

/-- The flags of Table 4-6, in the order of their bits. -/
inductive Flag where
  | invalid | overflow | underflow | inexactNarrow | nanIn | divzero
  | permRange | emptyRow | sat | tableGen | watchdog | twinMismatch
deriving DecidableEq, Repr

/-- The bit position of a flag (Table 4-6). -/
def Flag.bit : Flag → Nat
  | .invalid => 0 | .overflow => 1 | .underflow => 2 | .inexactNarrow => 3 | .nanIn => 4 | .divzero => 5
  | .permRange => 6 | .emptyRow => 7 | .sat => 8 | .tableGen => 9 | .watchdog => 10 | .twinMismatch => 11

/-- Element `i` of a vector that has one element for every value of a `w`-bit index. -/
def vAt {α : Type} {w : Nat} (v : Vector α (2 ^ w)) (i : BitVec w) : α := v[i.toNat]'i.isLt

/-- The vector with element `i` replaced. -/
def vPut {α : Type} {w : Nat} (v : Vector α (2 ^ w)) (i : BitVec w) (x : α) : Vector α (2 ^ w) :=
  v.set i.toNat x i.isLt

/-- The vector in which every element is `x`. -/
def vAll {α : Type} (w : Nat) (x : α) : Vector α (2 ^ w) := Vector.replicate (2 ^ w) x

/-- Bits `[lo + n - 1 : lo]` of a word, zero-extended to 32 bits. -/
def bitsOf (v : Word) (lo n : Nat) : Word := (v >>> lo) &&& BitVec.ofNat 32 (2 ^ n - 1)

/-- A one-bit word from a truth value. -/
def bit1 (b : Bool) : Word := if b then 1#32 else 0#32

/-- Increment of a counter that stays at its largest value (R193, R196, R224). -/
def satAdd (c : Word) (n : Nat) : Word := BitVec.ofNat 32 (min (c.toNat + n) (2 ^ 32 - 1))

end Sys2Proof
end

