-- ==== Sys2Proof/Syntax.lean ====
section
/-! DEFINITION. The commands of the Umamor unit: one constructor per row of spec/opcode_table.json.
A command that is a write of a register carries the 32-bit word written (its own command bit is set in it, which
WellFormed checks); an event carries the reading it brings. -/

namespace Sys2Proof

/-- The measured delays of the 64 canaries: those of the bundles and those of the paths, 16 bits each, canary 4 e + k of engine e in
place 4 e + k (R226, log 80). -/
structure Delays where
  bundles : BitVec 1024
  paths : BitVec 1024
deriving DecidableEq, Repr

/-- The commands (95_what_each_step_holds.md; opcode_table.json). -/
inductive Instr where
  -- UM_GCTRL writes
  | run (v : Word) | stop (v : Word) | hold (v : Word) | resume (v : Word) | bist (v : Word) | softwareReset (v : Word)
  -- guest registers
  | attach (g : GuestId) (v : Word) | detachDrain (g : GuestId) (v : Word) | detachNow (g : GuestId) (v : Word)
  | guestResume (g : GuestId) (v : Word) | doorbell (g : GuestId) (v : Word)
  | gqBaseWrite (g : GuestId) (v : Word) | gqCfgWrite (g : GuestId) (v : Word)
  -- overlays, page 3
  | overlayOpen (v : Word) | overlayApply (v : Word) | overlayDiscard (v : Word)
  | overlayWindowWrite (off : BitVec 12) (v : Word)
  -- cellar tables, pages 4 and 5
  | tableStage (v : Word) | tableCommit (v : Word) | tableAbandon (v : Word)
  | tableWindowWrite (w : BitVec 9) (v : Word)
  -- vintage, pages 6 and 7
  | setPolicy (v : Word) | vsClear (v : Word) | vwOpen (v : Word) | vwApply (v : Word) | vwDiscard (v : Word)
  | vwDataWrite (off : BitVec 12) (v : Word)
  | saveSlots (v : Word) | restoreSlots (v : Word) | saveMaps (v : Word) | restoreMaps (v : Word)
  | transferComplete
  -- tasting, page 14
  | tsClear (v : Word) | tsClearAll (v : Word) | tsSave (v : Word) | tsSaveComplete
  -- registers in general
  | errClr (p : PageId) (v : Word) | w1cClear (off : BitVec 16) (v : Word)
  | clrLow (v : Word) | hlUsedWrite (v : Word) | hlLifeWrite (v : Word)
  | sprusedWrite (v : Word) | sprlimWrite (v : Word) | pacecapWrite (v : Word)
  | bundleWrite (v : Word) | vreqWrite (v : Word) | twCtrlWrite (v : Word)
  | trClear (v : Word) | trFreeze (v : Word) | trUnfreeze (v : Word) | step (v : Word) | stepEnd
  | registerWrite (off : BitVec 16) (v : Word)
  -- an access of another size, with the data of a write (none for a read)
  | busSize (off : BitVec 16) (size : BitVec 8) (write : Option (BitVec 64))
  | lowWordRead (off : BitVec 16)
  -- power manager
  | vtarget (code : BitVec 6) | pace (v : BitVec 16) | sprintGrant | sprintRevoke | resetN
  -- supply
  | powerUp (mv : BitVec 10) | brownOut (mv : BitVec 10) | retentionEntry (mv : BitVec 10)
  | retentionExit (mv : BitVec 10) | vsprintChange (mv : BitVec 10)
  -- start-up
  | initDone | oscCountDone (count : BitVec 24) (mv : BitVec 10)
  | calibrateEnd (romOk : Bool) (mcal : BitVec 128)
  | bistEnd (failed : BitVec 8) (info : Word) (ticks : Word) (edges : BitVec 64)
  -- timers and monitors
  | sprintTick | ledgerTick (mv : BitVec 10) | lifeEstimate | paceWindow | holdoffEnd | sprintIdleTimeout
  | iest (estimate : Word) | tempSample (tj : BitVec 10) | canarySample (readings : Delays)
  | sramError (uncorr : Bool) (array : BitVec 2) (index : BitVec 20)
  -- execution
  | itineraryFetch | itineraryCheck | beat (e : EngineId) | rowTurnaround (e : EngineId) | racking (e : EngineId)
  | readReturn (line : BitVec 17) (poison : BitVec 8) | writeAccept
  | itineraryComplete (g : GuestId) | watchdog (c : Bool)
  -- twin
  | twinActivate | twinChunkSend | twinMessage (seq : BitVec 16) (hash : BitVec 64) | twinLeave
  -- trace
  | traceWrite
  | resetRelease (mv : BitVec 10)
deriving DecidableEq, Repr

end Sys2Proof
end

