-- ==== Sys2Proof/Decode.lean ====
section
/-! DEFINITION. Commands spelled by table words. The block has no instruction encoding, and spec/opcode_table.json gives
its rows no bits. -/

namespace Sys2Proof

/-- The command that a word of the table spells: the table gives no row any bits, so no word spells one. -/
def decodeTableWord (_nbits _w : Nat) : Option Instr := none

end Sys2Proof
end

