-- ==== Sys2Proof/Config.lean ====
section
/-! DEFINITION. What an implementation fixes and the manual leaves open: constants without a value that a proof could use. -/

namespace Sys2Proof.Config

/-- The instance number n, 0-7 (R1, R28): fixed in the silicon. -/
opaque instanceNo : BitVec 3
/-- UM_PAGE_VER.stepping, per part (R241, R243). -/
opaque stepping : BitVec 8
/-- EX_T, the entries other than the fixed one (Table 7-1, R9). -/
opaque exT : Nat → BitVec 64
/-- EX_C, coefficient k of the set of grade g, other than coefficient 0 (Table 7-1, R9). -/
opaque exC : Nat → Nat → BitVec 64
/-- LG_T, the c of the pair stored at an index, other than the fixed pair (Table 7-1, R9). -/
opaque lgTc : Nat → BitVec 64
/-- LG_T, the L of the pair stored at an index, other than the fixed pair (Table 7-1, R9). -/
opaque lgTl : Nat → BitVec 64
/-- LG_C, coefficient k of the set of grade g (Table 7-1, R9). -/
opaque lgC : Nat → Nat → BitVec 64
/-- RC_T (Table 7-1, R9). -/
opaque rcT : Nat → BitVec 64
/-- RC_C, coefficient k of the set of grade g (Table 7-1, R9). -/
opaque rcC : Nat → Nat → BitVec 64
/-- RS_T, the c of a pair (Table 7-1, R9). -/
opaque rsTc : Nat → BitVec 64
/-- RS_T, the w of a pair (Table 7-1, R9). -/
opaque rsTw : Nat → BitVec 64
/-- RS_C, coefficient k of the set of grade g (Table 7-1, R9). -/
opaque rsC : Nat → Nat → BitVec 64
/-- Word w of the image of a built-in blend slot, where the manual does not give it (R60, R9). -/
opaque builtinWord : Nat → Nat → Word
/-- The tasting term of a compared value whose stored code is a NaN code, which R116 gives no value: one for each linear index. -/
opaque nanTerm : Nat → BitVec 32
/-- D[c], the per-code canary correction held in the coefficient ROM (R227). -/
opaque canaryD : BitVec 6 → Int
/-- Free values for bytes the manual calls unspecified (R199, R205): one for each draw. -/
opaque freeByte : Nat → Byte
/-- Free choices the manual leaves unspecified (R205): one for each draw. -/
opaque freeNat : Nat → Nat

end Sys2Proof.Config
end

