-- ==== Sys2Proof/Machine/State.lean ====
section
/-! DEFINITION. The state of one Umamor instance as plain data, with the state right after entry to RESET at power-up. -/

namespace Sys2Proof.Machine

/-- Why a step stops the model. -/
inductive Fault where
  /-- An access to an address outside the 48 MB scratchpad (01_boundary.md), which does not exist. Raised by
  itineraryFetch, beat, rowTurnaround, racking, writeAccept, transferComplete, tsSaveComplete, itineraryComplete and watchdog in
  states that no check of R35, R46, R112 or R119 lets arise. Safe. -/
  | outsideScratchpad
deriving DecidableEq, Repr

/-- Why the model has no meaning to give. -/
inductive Refusal where
  /-- The command of this mnemonic has no meaning yet. Raised by Dispatch only. Safe. -/
  | notModelled (mnemonic : String)
deriving DecidableEq, Repr

/-! ### Unit and pages -/

/-- The unit states of Table 11-1 (R173). -/
inductive UnitState where
  | off | reset | calibrate | bist | idle | run | drain | hold | fault
deriving DecidableEq, Repr

/-- The guest states of R46, with the codes of UM_GS_STATE.state. -/
inductive GuestState where
  | detached | active | paused | draining
deriving DecidableEq, Repr

/-- The stored part of a page's common header (R241, R195, R196). -/
structure PageHdr where
  ien : BitVec 16
  istat : BitVec 16
  errCode : BitVec 8
  errStatus : BitVec 3
  errValid : Bool
  errArg : BitVec 20
  errCnt : Word
  scratch : Word
deriving DecidableEq, Repr

/-! ### Guests -/

/-- An itinerary record once it has been read, and whether its bytes came from a poisoned segment (R19, R29). -/
structure Fetched where
  bytes : Record
  poisoned : Bool
deriving DecidableEq, Repr

/-- One guest: its control block, status block, flags and mailbox (R44, R192, R202). -/
structure Guest where
  base : BitVec 26
  log2Size : BitVec 4
  weight : BitVec 4
  stopOnReject : Bool
  limitUs : BitVec 16
  tail : BitVec 16
  head : BitVec 16
  started : BitVec 16
  state : GuestState
  /-- detach_now was accepted: pending entries that have not started are discarded (R47). -/
  discard : Bool
  last : Word
  first : Word
  flags : BitVec 12
  mbox : Vector Word (2 ^ 3)
  /-- The record of entry `started`, once read (R29, R48). -/
  record : Option Fetched
deriving DecidableEq, Repr

/-! ### Casks, tallies and row state -/

/-- The five operands of Table 2-1. -/
inductive Opd where
  | in0 | in1 | in2 | out0 | out1
deriving DecidableEq, Repr

/-- A cask (Table 8-2). `c` is the exact integer of R136; R139 shows that 576 bits hold it. -/
structure Cask where
  c : Int
  nan : Bool
  pinf : Bool
  ninf : Bool
  zinf : Bool
  negz : Bool
  terms : Nat
  sticky : Bool
deriving DecidableEq, Repr

/-- A cleared cask (Table 8-2, R137). -/
def Cask.clear : Cask :=
  { c := 0, nan := false, pinf := false, ninf := false, zinf := false, negz := true, terms := 0, sticky := false }

/-- Raisings of each data flag, by bit (R193), with the NaN and overflow counts of R79. A flag is in the set when its
count is not 0 (R192). -/
structure Tally where
  ev : Vector Nat (2 ^ 4)
  nan : Nat
  ovf : Nat
deriving DecidableEq, Repr

/-- An empty tally. -/
def Tally.zero : Tally := { ev := vAll 4 0, nan := 0, ovf := 0 }

/-- A tasting record (Table 6-6). -/
structure Taste where
  tiles : Nat
  nCmp : Nat
  nZeroed : Nat
  nClipped : Nat
  convMax : Nat
  convSum : Nat
  fnMax : Nat
  fnNan : Nat
  fnSum : Nat
deriving DecidableEq, Repr

/-- A zero tasting record (R103, R119). -/
def Taste.zero : Taste :=
  { tiles := 0, nCmp := 0, nZeroed := 0, nClipped := 0, convMax := 0, convSum := 0, fnMax := 0, fnNan := 0, fnSum := 0 }

/-- What is known of one block of a block-scaled output: the largest finite |y| and whether a NaN is among its kept
elements (R97, R99). -/
structure BlockAcc where
  amax : XVal
  nan : Bool
deriving DecidableEq, Repr

/-- A stored code noted for the twin stream: output (false = out0), position in the order of R34, code (R235). -/
structure Noted where
  out : Bool
  e : Nat
  code : Nat
deriving DecidableEq, Repr

/-- The working state of one row (or of one lane's column): casks, trackers, row constants and what the row reports. -/
structure RowAcc where
  kept : Nat
  k0 : Cask
  k1 : Cask
  k2 : Cask
  k3 : Cask
  /-- Tracker of the summary row maximum (R144, R200). -/
  rowMax : Option XVal
  /-- Tracker of the class's own maximum: STAT's max f(x), AMAX's amax (R101, R145). -/
  outMax : Option XVal
  /-- Kept entries of SMAX, LSE and XENT by kind (R160). -/
  nNan : Nat
  nPinf : Nat
  nNinf : Nat
  nFin : Nat
  /-- Running maximum M' and the lowest n of the terms entered (R162, R163). -/
  mRun : Option Int
  lowN : Option Int
  needRack : Bool
  /-- XENT: the row's label, and the u of the element at the label position (R167). -/
  label : Int
  labelU : Option Word
  /-- Row constants (R150, R155, R164). -/
  mu : Word
  w : Word
  rstd : Word
  ca : Word
  cb : Word
  sigma : Word
  recip : Word
  /-- The row case: the case of Table 10-1, 0 for an ignored row, 8 for a label out of range; 9 for a non-finite row of the normalisation
  classes. -/
  rowCase : Nat
  /-- The (row) value presented to out0 or out1. -/
  rowY0 : XVal
  rowY1 : XVal
  /-- Sums of the row record (R200) and the term for the itinerary cask (R148). -/
  sum1 : Word
  sum2 : Word
  icTerm : Option Word
  tally : Tally
  /-- Capture: the largest finite |y| and the count of non-finite values (R105). -/
  cap : Option XVal
  nonfin : Nat
  bam : List ((Bool × Nat) × BlockAcc)
  taste : Taste
  noted : List Noted
  /-- Places this beat stores to, each with the linear index it stores for; the beat's issue empties the list (R6, R36). -/
  stored : List (Nat × Nat)
deriving DecidableEq, Repr

/-- The row state before the first term of a row (R137). -/
def RowAcc.clear : RowAcc :=
  { kept := 0, k0 := .clear, k1 := .clear, k2 := .clear, k3 := .clear, rowMax := none, outMax := none,
    nNan := 0, nPinf := 0, nNinf := 0, nFin := 0, mRun := none, lowN := none, needRack := false,
    label := 0, labelU := none, mu := 0, w := 0, rstd := 0, ca := 0, cb := 0, sigma := 0, recip := 0,
    rowCase := 7, rowY0 := .fin false 0 1, rowY1 := .fin false 0 1, sum1 := 0, sum2 := 0, icTerm := none,
    tally := .zero, cap := none, nonfin := 0, bam := [], taste := .zero, noted := [],
    stored := [] }

/-! ### Execution -/

/-- What an itinerary's first read of an item returned: an element of an operand by its linear index, or a scale code by its block;
the 64 bits of a DQ_AFFINE area are scale item 0 (R18, R69, R94). -/
structure Taken where
  opd : Opd
  scale : Bool
  item : Nat
  code : Nat
  poisoned : Bool
deriving DecidableEq, Repr

/-- A configuration context with the itinerary it serves (R50, R183). -/
structure Ctx where
  it : Record
  guest : GuestId
  index : BitVec 16
  /-- Context values of the registers of Table 11-7. -/
  smCfg : Word
  tsCtrl : Word
  tsConvThr : Word
  tsFnThr : Word
  trCtrl : Word
  /-- Pinned generation and pinned banks, true = bank B (R188). -/
  gen : Word
  bankBlend : Bool
  bankDq8 : Bool
  bankDq4 : Bool
  /-- The slot as the itinerary found it (R104), and the exponent its VINTAGE output uses (R95, R108). -/
  vRead : BitVec 8
  vWrite : BitVec 8
  policy : Word
  slotEmpty : Bool
  vOut : BitVec 8
  bitmap : BitVec 4096
  /-- Oscillator ticks since the last progress (R198). -/
  progress : Nat
  /-- false: the first evaluation of R100 or the pre-pass of R108 is running; true: the storing evaluation. -/
  storing : Bool
  nextRow : Nat
  rowsDone : Nat
  tally : Tally
  icask : Cask
  rowMax : Option XVal
  emptyRows : Nat
  cap : Option XVal
  nonfin : Nat
  preCap : Option XVal
  bam : List ((Bool × Nat) × BlockAcc)
  /-- Row states kept from the first evaluation of a two-pass class (R153, R166). -/
  saved : List (Nat × RowAcc)
  taste : Taste
  noted : List Noted
  /-- First reads of this itinerary (R18, R69, R94, R169). -/
  taken : List Taken
  /-- Bytes that itineraries have written while this one is in execution, newest first, as (address, bits written, the byte before): its
  reads find them as they were (R6, R14). -/
  before : List (Nat × Byte × Byte)
  /-- The bits that accepted units of this itinerary have written, as (address, bits, data) (R19). -/
  covered : List (Nat × Byte × Byte)
  /-- Places already issued, as (bit position, linear index issued for it) (R6, R36). -/
  wrote : List (Nat × Nat)
deriving DecidableEq, Repr

/-- A started, rejected or discarded itinerary whose completion has not posted (R51). -/
structure Entry where
  guest : GuestId
  index : BitVec 16
  cls : BitVec 4
  /-- Completion bits of H1 that act: INTR, SUMM_INTR, STOPOVER (R51). -/
  intr : Bool
  summIntr : Bool
  stopover : Bool
  status : BitVec 3
  reason : BitVec 8
  /-- The context it runs in, while it is in execution. -/
  ctx : Option Bool
  /-- The slot it pins (R104). -/
  pin : Option SlotId
  /-- UM_TR_CTRL of the context it formed, and which context (R253). -/
  gov : Option (Word × Bool)
  /-- The record of an itinerary that started: others wait for its written areas until it completes (R50). -/
  held : Option Record
deriving DecidableEq, Repr

/-- The phases of UM_DBG_ENG.phase (Table 15-9), without the stopped code 7, which the register derives. -/
inductive Phase where
  | none | pass1 | turnaround | pass2 | racking | first | column
deriving DecidableEq, Repr

/-- A row engine (R53, R212, R257, R258). -/
structure Engine where
  phase : Phase
  /-- The work of the engine's last beat for the itinerary in `ctx`; none when it has served none of those in execution (R258). -/
  shown : Phase
  ctx : Bool
  row : Nat
  /-- Slice of the row, or i1 of a column walk, to issue next. -/
  pos : Nat
  /-- Beats already spent on that slice (R62). -/
  sub : Nat
  acc : RowAcc
  /-- The lanes of a column walk, lane 0 first (R53, R146). -/
  lanes : List RowAcc
  waiting : Bool
  /-- Beats issued in the pace window in progress (R212). -/
  issued : Nat
  stepLeft : BitVec 16
deriving DecidableEq, Repr

/-- An engine with no itinerary. -/
def Engine.empty : Engine :=
  { phase := .none, shown := .none, ctx := false, row := 0, pos := 0, sub := 0, acc := .clear, lanes := [], waiting := false, issued := 0, stepLeft := 0 }

/-- One write unit in the scratchpad write FIFO: the 256 B unit it lies in, and its bytes as (address, mask of the bits
written, data). -/
structure WUnit where
  ctx : Bool
  unit : Nat
  bytes : List (Nat × Byte × Byte)
deriving DecidableEq, Repr

/-! ### Overlays, tables, vintage -/

/-- An overlay: a count and 64 entries of two words (R185). -/
structure Overlay where
  count : BitVec 7
  ents : Vector Word (2 ^ 7)
deriving DecidableEq, Repr

/-- The empty overlay (R185). -/
def Overlay.empty : Overlay := { count := 0, ents := vAll 7 0 }

/-- The overlay window of page 3 while it is open (R186). -/
structure OvWindow where
  sel : BitVec 3
  copy : Overlay
deriving DecidableEq, Repr

/-- The cellar tables that can change, and the registers of page 4 (R187-R191). -/
structure Cellar where
  loaded : Bool
  gen : Word
  selTable : BitVec 4
  selWindow : BitVec 2
  selView : Bool
  /-- STAGING marks of BLEND, DQ8, DQ4. -/
  stBlend : Bool
  stDq8 : Bool
  stDq4 : Bool
  /-- Active bank, true = B. -/
  actBlend : Bool
  actDq8 : Bool
  actDq4 : Bool
  /-- User slots 32-63: word (slot - 32) * 32 + w. -/
  blendA : Vector Word (2 ^ 10)
  blendB : Vector Word (2 ^ 10)
  dq8A : Vector Word (2 ^ 8)
  dq8B : Vector Word (2 ^ 8)
  dq4A : Vector Word (2 ^ 4)
  dq4B : Vector Word (2 ^ 4)
  emDq8A : Bool
  emDq8B : Bool
  emDq4A : Bool
  emDq4B : Bool
deriving DecidableEq, Repr

/-- A vintage slot record as its 16 words (Table 6-1). -/
abbrev SlotRec := Vector Word (2 ^ 4)

/-- The vintage data window while it is open (R111). -/
structure VwWindow where
  slot : SlotId
  record : SlotRec
  map : BitVec 4096
deriving DecidableEq, Repr

/-- The transfer operations of UM_VW_XCMD.op (R112). -/
inductive XferOp where
  | saveSlots | restoreSlots | saveMaps | restoreMaps
deriving DecidableEq, Repr

/-- A running vintage transfer (R112). -/
structure Xfer where
  op : XferOp
  first : Nat
  count : Nat
  base : Nat
deriving DecidableEq, Repr

/-- Vintage slots, bitmaps and the registers of pages 6 and 7 (R102-R112). -/
structure Vintage where
  slots : Vector SlotRec (2 ^ 10)
  maps : Vector (BitVec 4096) (2 ^ 6)
  rangeFirst : SlotId
  rangeLast : SlotId
  policy : Word
  coldrd : Word
  ctrlSlot : SlotId
  window : Option VwWindow
  xbase : BitVec 26
  xfirst : BitVec 10
  xcountM1 : BitVec 10
  xop : BitVec 2
  xfer : Option Xfer
deriving DecidableEq, Repr

/-- The reset record of a slot (R103). -/
def slotReset : SlotRec := vPut (vPut (vAll 4 0) 0 0x00000F00#32) 1 0x0000030F#32

/-! ### Exceptions, power, health, test, twin, tasting, trace -/

/-- Page 8 (Table 12-10), without the guests' flags. -/
structure Exceptions where
  flags : BitVec 12
  fmask : BitVec 12
  nanCnt : Word
  ovfCnt : Word
  sramCnt : Word
  sramArray : BitVec 2
  sramIndex : BitVec 20
  sramValid : Bool
  evCnt : Vector Word (2 ^ 4)
deriving DecidableEq, Repr

/-- Page 10 (Table 13-5) and the timers and hidden values of *Self-Timed Operation, Power and Pace*. -/
structure Power where
  sprintEn : Bool
  vack : BitVec 6
  sprintReq : Bool
  granted : Bool
  /-- A margin session has ended with the latest acknowledged code in the sprint region, and no code has been acknowledged since
  (R232, log 89). -/
  lapsed : Bool
  rvkPace : Bool
  /-- The cause of the revoke pace holds: VDD_U has not left the sprint region since (R216, R218). -/
  rvkCause : Bool
  guardOn : Bool
  guardPace : Bool
  protoPace : Bool
  /-- The cause of the protocol pace holds (R211). -/
  protoCause : Bool
  clamped : Bool
  accountOk : Bool
  hot : Bool
  vsprint : Bool
  holdoff : Bool
  osc : BitVec 24
  nombeats : BitVec 16
  mgr : BitVec 16
  eff : BitVec 16
  cap : BitVec 16
  iest : BitVec 8
  tj : BitVec 10
  tthr : BitVec 10
  sprUsed : Word
  sprLim : Word
  sprAcc : BitVec 64
  revCnt : Word
  proto : Word
  beats : BitVec 64
  beatHi : Word
  /-- The held VTARGET of RESET or CALIBRATE (R176). -/
  heldV : Option (BitVec 6)
  /-- The code the canary thresholds and the current model are set for (R210, R227). -/
  model : BitVec 6
  cCal : BitVec 6
  /-- PACE and cap values in force since the window began (R213). -/
  winMgr : BitVec 16
  winCap : BitVec 16
  windowTicks : Nat
  holdTicks : Nat
  /-- Ticks since an itinerary was last in execution, and whether SPRINT_IDLE_TIMEOUT has not yet ended that span (R214). -/
  idleTicks : Nat
  recent : Bool
  sampleT : Nat
  sampleC : Nat
  sampleI : Nat
deriving DecidableEq, Repr

/-- One engine's canary registers and thresholds' basis (R226, R227). -/
structure Canary where
  reading : BitVec 8
  low : BitVec 8
  expect : BitVec 8
  mcal : BitVec 8
  /-- The last sample was below T. -/
  belowT : Bool
deriving DecidableEq, Repr

/-- Page 11 (Table 14-4) and the hidden ledger values (R228, R229). -/
structure Health where
  can : Vector Canary (2 ^ 4)
  cwarn : BitVec 8
  warn : BitVec 16
  lost : BitVec 16
  used : Word
  life : Word
  ledgerOk : Bool
  ravg : BitVec 16
  remain : Word
  lowThr : Word
  acc : BitVec 64
  quarters : Nat
  estTicks : Nat
deriving DecidableEq, Repr

/-- Page 12 (Table 14-5). -/
structure TestRegs where
  guard : BitVec 4
  sweepMax : BitVec 4
  vreqCode : BitVec 6
  vreqEn : Bool
  biSel : BitVec 8
  biPass : BitVec 8
  biFail : BitVec 8
  biInfo : Word
  biTicks : Word
  edge : BitVec 64
  /-- The BIST in progress was requested by the bist command. -/
  requested : Bool
  /-- The index of the first uncorrectable error that the BIST in progress has met in the SRAM of VINT (R233). -/
  vintErr : Option (BitVec 20)
deriving DecidableEq, Repr

/-- Page 13 (Table 14-6) and the twin stream (R235-R237). -/
structure Twin where
  enable : Bool
  guest : GuestId
  onMismatch : Bool
  active : Bool
  nextTx : BitVec 16
  nextCmp : BitVec 16
  missSeq : BitVec 16
  missValid : Bool
  misCnt : Word
  uncmp : Word
  hash : BitVec 64
  hashHi : Word
  /-- Own hashes awaiting compare, oldest first (R27). -/
  own : List (BitVec 16 × BitVec 64)
  /-- Partner messages held, oldest first. -/
  part : List (BitVec 16 × BitVec 64)
  /-- Bytes of the stream whose chunk has not been formed. -/
  stream : List Byte
deriving DecidableEq, Repr

/-- Page 14 (Table 6-7) and the tasting records. -/
structure Tasting where
  ctrl : Word
  convThr : Word
  fnThr : Word
  selIndex : SlotId
  selKind : Bool
  saveBase : BitVec 26
  guests : Vector Taste (2 ^ 6)
  slots : Vector Taste (2 ^ 10)
  /-- A running save: its base and the snapshot taken at the command (R119). -/
  save : Option (Nat × Vector Taste (2 ^ 6) × Vector Taste (2 ^ 10))
  rec5 : Word
  rec9 : Word
deriving DecidableEq, Repr

/-- One trace entry (Table 15-7). -/
structure TrEnt where
  w0 : Word
  w1 : Word
  w2 : Word
  w3 : Word
deriving DecidableEq, Repr

/-- Page 15 (Table 15-6). -/
structure Trace where
  ctrl : Word
  next : BitVec 7
  count : Nat
  wrapped : Bool
  stopped : Bool
  ticks : Word
  lost : Word
  ents : Vector TrEnt (2 ^ 7)
  queue : List TrEnt
  dbgBeats : BitVec 16
  stepping : Bool
  /-- Beats requested by the step in progress, for its STEP event. -/
  stepReq : BitVec 16
deriving DecidableEq, Repr

/-- Messages the unit sends to the power manager (Table 1-5). SPRINT_REQ is a level, held in `Power.sprintReq`. -/
inductive PmMsg where
  | vack (code : BitVec 6)
  | iest (code : BitVec 8)
deriving DecidableEq, Repr

/-- The whole state of the instance, with the scratchpad it works on. -/
structure State where
  unit : UnitState
  resetCause : BitVec 2
  faultCause : BitVec 8
  retention : Bool
  resetN : Bool
  vddMv : BitVec 10
  /-- The internal initialisation of R174 is running. -/
  initRun : Bool
  /-- Step 1 of CALIBRATE has ended (R175). -/
  oscDone : Bool
  /-- Oscillator ticks since step 3 of CALIBRATE, or the BIST in progress, began (R175, R177). -/
  upTicks : Nat
  hdr : Vector PageHdr (2 ^ 4)
  guests : Vector Guest (2 ^ 6)
  done : BitVec 64
  ready : BitVec 64
  arbPtr : GuestId
  arbCredit : BitVec 4
  /-- The guest that arbitration selected and whose next itinerary waits for its checks. -/
  cur : Option GuestId
  entries : List Entry
  ctx0 : Option Ctx
  ctx1 : Option Ctx
  exec0 : Word
  exec1 : Word
  exIdx0 : BitVec 16
  exIdx1 : BitVec 16
  engines : Vector Engine (2 ^ 4)
  wfifo : List WUnit
  mem : List Host.Cell
  /-- Scratchpad segments (address / 64) that carry an uncorrectable error (R18). -/
  poison : List Nat
  /-- 8-byte groups (address / 8) of poisoned segments that an accepted unit has merged since the segment's mark, so that no old bit is left
  in them (Table 1-9): the model's own record beside the marks (log 19). -/
  merged : List Nat
  overlays : Vector Overlay (2 ^ 3)
  ovSel : BitVec 3
  ovWin : Option OvWindow
  ovBad : BitVec 6
  cellar : Cellar
  vint : Vintage
  exc : Exceptions
  smCfg : Word
  power : Power
  health : Health
  test : TestRegs
  twin : Twin
  tasting : Tasting
  trace : Trace
  /-- Data of the last register read. -/
  rdata : Word
  /-- Data of the lower half of the last 64-bit read, whose upper half is then in `rdata` (R20). -/
  rdataLow : Word
  /-- Messages sent to the power manager, oldest first. -/
  pmOut : List PmMsg
  /-- Messages sent on the twin link, oldest first. -/
  twinOut : List (BitVec 16 × BitVec 64)
  /-- The model's own: free values drawn so far (log 9). -/
  free : Nat
  /-- The model's own: commands waiting, oldest first (log 3). -/
  pending : List Instr
deriving DecidableEq, Repr

/-! ### Reset values -/

/-- A page header at reset (Table 15-2). -/
def PageHdr.reset : PageHdr :=
  { ien := 0, istat := 0, errCode := 0, errStatus := 0, errValid := false, errArg := 0, errCnt := 0, scratch := 0 }

/-- A guest at reset (Table 2-8). -/
def Guest.reset : Guest :=
  { base := 0, log2Size := 0, weight := 1, stopOnReject := true, limitUs := 0xC350#16, tail := 0, head := 0, started := 0,
    state := .detached, discard := false, last := 0, first := 0, flags := 0, mbox := vAll 3 0, record := none }

/-- The cellar at reset (Table 11-10): every bank unloaded and empty. -/
def Cellar.reset : Cellar :=
  { loaded := false, gen := 0, selTable := 0, selWindow := 0, selView := false, stBlend := false, stDq8 := false, stDq4 := false,
    actBlend := false, actDq8 := false, actDq4 := false, blendA := vAll 10 0, blendB := vAll 10 0, dq8A := vAll 8 0, dq8B := vAll 8 0,
    dq4A := vAll 4 0, dq4B := vAll 4 0, emDq8A := true, emDq8B := true, emDq4A := true, emDq4B := true }

/-- Vintage state at reset (R103, Tables 6-3 and 6-4). -/
def Vintage.reset : Vintage :=
  { slots := vAll 10 slotReset, maps := vAll 6 0, rangeFirst := 0, rangeLast := 0, policy := 0x0000030F#32, coldrd := 0,
    ctrlSlot := 0, window := none, xbase := 0, xfirst := 0, xcountM1 := 0, xop := 0, xfer := none }

/-- Page 8 at reset (Table 12-10). -/
def Exceptions.reset : Exceptions :=
  { flags := 0, fmask := 0xE01#12, nanCnt := 0, ovfCnt := 0, sramCnt := 0, sramArray := 0, sramIndex := 0, sramValid := false,
    evCnt := vAll 4 0 }

/-- Page 10 at reset (Table 13-5); the timers at 0 (log 7). -/
def Power.reset : Power :=
  { sprintEn := false, vack := 0, sprintReq := false, granted := false, lapsed := false, rvkPace := false, rvkCause := false, guardOn := false,
    guardPace := false, protoPace := false, protoCause := false, clamped := false, accountOk := false, hot := false, vsprint := false, holdoff := false, osc := 0,
    nombeats := 0, mgr := 0xFFFF#16, eff := 0xFFFF#16, cap := 0xFFFF#16, iest := 0, tj := 0, tthr := 0x230#10, sprUsed := 0,
    sprLim := 0x00A4CB80#32, sprAcc := 0, revCnt := 0, proto := 0, beats := 0, beatHi := 0, heldV := none, model := 0, cCal := 0,
    winMgr := 0xFFFF#16, winCap := 0xFFFF#16, windowTicks := 0, holdTicks := 0, idleTicks := 0, recent := false, sampleT := 0, sampleC := 0, sampleI := 0 }

/-- A canary at reset (Table 14-4). -/
def Canary.reset : Canary := { reading := 0, low := 0xFF#8, expect := 0, mcal := 0, belowT := false }

/-- Page 11 at power-up (Table 14-4, R230). -/
def Health.reset : Health :=
  { can := vAll 4 .reset, cwarn := 0x10#8, warn := 0, lost := 0, used := 0, life := 0x0E71FF80#32, ledgerOk := false, ravg := 256,
    remain := 0xFFFFFFFF#32, lowThr := 0x00002238#32, acc := 0, quarters := 0, estTicks := 0 }

/-- Page 12 at reset (Table 14-5). -/
def TestRegs.reset : TestRegs :=
  { guard := 0, sweepMax := 0, vreqCode := 0, vreqEn := false, biSel := 0xFF#8, biPass := 0, biFail := 0, biInfo := 0, biTicks := 0,
    edge := 0, requested := false, vintErr := none }

/-- Page 13 at reset (Table 14-6). -/
def Twin.reset : Twin :=
  { enable := false, guest := 0, onMismatch := false, active := false, nextTx := 0, nextCmp := 0, missSeq := 0, missValid := false,
    misCnt := 0, uncmp := 0, hash := 0, hashHi := 0, own := [], part := [], stream := [] }

/-- Page 14 at reset (Table 6-7, R103). -/
def Tasting.reset : Tasting :=
  { ctrl := 0x00000110#32, convThr := 0xFFFFFFFF#32, fnThr := 0xFFFFFFFF#32, selIndex := 0, selKind := false, saveBase := 0,
    guests := vAll 6 .zero, slots := vAll 10 .zero, save := none, rec5 := 0, rec9 := 0 }

/-- Page 15 at reset (Table 15-6). -/
def Trace.reset : Trace :=
  { ctrl := 0x0000FF00#32, next := 0, count := 0, wrapped := false, stopped := false, ticks := 0, lost := 0,
    ents := vAll 7 ⟨0, 0, 0, 0⟩, queue := [], dbgBeats := 1, stepping := false, stepReq := 0 }

/-- The machine right after entry to RESET at power-up: cause 0, RESET_N still 0 (log 4). -/
def State.reset : State :=
  { unit := .reset, resetCause := 0, faultCause := 0, retention := false, resetN := false, vddMv := 500, initRun := false,
    oscDone := false, upTicks := 0, hdr := vAll 4 .reset, guests := vAll 6 .reset, done := 0, ready := 0, arbPtr := 0, arbCredit := 0,
    cur := none, entries := [], ctx0 := none, ctx1 := none, exec0 := 0, exec1 := 0, exIdx0 := 0, exIdx1 := 0, engines := vAll 4 .empty,
    wfifo := [], mem := [], poison := [], merged := [], overlays := vAll 3 .empty, ovSel := 0, ovWin := none, ovBad := 0, cellar := .reset,
    vint := .reset, exc := .reset, smCfg := 0, power := .reset, health := .reset, test := .reset, twin := .reset,
    tasting := .reset, trace := .reset, rdata := 0, rdataLow := 0, pmOut := [], twinOut := [], free := 0, pending := [] }

end Sys2Proof.Machine
end

