-- ==== Sys2Proof/Machine/Flags.lean ====
section
/-! DEFINITION. Flags and their counts: what an element, a row and an itinerary raise (R82, R192, R193). -/

namespace Sys2Proof.Machine

/-- One raising of a flag (R193). -/
def Tally.raise (t : Tally) (f : Flag) : Tally :=
  let i := BitVec.ofNat 4 f.bit
  { t with ev := vPut t.ev i (vAt t.ev i + 1) }

/-- Several raisings. -/
def Tally.raiseAll (t : Tally) (fs : List Flag) : Tally := fs.foldl Tally.raise t

/-- How often a flag was raised. -/
def Tally.count (t : Tally) (f : Flag) : Nat := vAt t.ev (BitVec.ofNat 4 f.bit)

/-- Two tallies together. -/
def Tally.merge (a b : Tally) : Tally :=
  { ev := Vector.zipWith (· + ·) a.ev b.ev, nan := a.nan + b.nan, ovf := a.ovf + b.ovf }

/-- The data flags, bits 0-8 of Table 4-6. -/
def dataFlags : List Flag :=
  [.invalid, .overflow, .underflow, .inexactNarrow, .nanIn, .divzero, .permRange, .emptyRow, .sat]

/-- The flag set of a tally (Table 4-6). -/
def Tally.flagSet (t : Tally) : BitVec 12 :=
  dataFlags.foldl (fun s f => if t.count f == 0 then s else s ||| (1#12 <<< f.bit)) 0#12

/-- Counting of one stored NaN (R79). -/
def Tally.countNan (t : Tally) : Tally := { t with nan := t.nan + 1 }

/-- Counting of one overflow (R79). -/
def Tally.countOvf (t : Tally) : Tally := { t with ovf := t.ovf + 1 }

end Sys2Proof.Machine
end

