-- ==== Sys2Proof/Machine/Num.lean ====
section
/-! DEFINITION. Exact arithmetic on presented values, FP32 codes, the element formats, rounding to a format (R55, R73-R75, R84, R123). -/

namespace Sys2Proof

/-! ### Exact values -/

/-- The exact zero with a sign. -/
def XVal.zero (neg : Bool) : XVal := .fin neg 0 1

/-- The exact value of an integer numerator over a denominator; the sign of a zero is given apart. -/
def XVal.ofInt (num : Int) (den : Nat) (zneg : Bool) : XVal :=
  if num = 0 then .zero zneg else .fin (num < 0) num.natAbs den

/-- A magnitude times a power of two, with a sign. -/
def XVal.scaled (neg : Bool) (m : Nat) (k : Int) : XVal :=
  if 0 ≤ k then .fin neg (m * 2 ^ k.toNat) 1 else .fin neg m (2 ^ (-k).toNat)

/-- An integer times a power of two. -/
def XVal.ofScaled (num : Int) (exp : Int) : XVal :=
  if 0 ≤ exp then .ofInt (num * (2 ^ exp.toNat : Nat)) 1 false else .ofInt num (2 ^ (-exp).toNat) false

/-- The signed numerator of a finite value (0 for the others). -/
def XVal.num : XVal → Int
  | .fin neg n _ => if neg then -(n : Int) else n
  | _ => 0

/-- The denominator of a finite value (1 for the others). -/
def XVal.den : XVal → Nat
  | .fin _ _ d => d
  | _ => 1

/-- NaN test. -/
def XVal.isNan : XVal → Bool
  | .nan => true
  | _ => false

/-- Infinity test. -/
def XVal.isInf : XVal → Bool
  | .inf _ => true
  | _ => false

/-- Finite test. -/
def XVal.isFin : XVal → Bool
  | .fin _ _ _ => true
  | _ => false

/-- ±0 test. -/
def XVal.isZero : XVal → Bool
  | .fin _ n _ => n == 0
  | _ => false

/-- The sign: true for minus; a NaN has none. -/
def XVal.neg? : XVal → Bool
  | .nan => false
  | .inf s => s
  | .fin s _ _ => s

/-- The value with its sign inverted; a NaN stays NaN (R57). -/
def XVal.negate : XVal → XVal
  | .nan => .nan
  | .inf s => .inf (!s)
  | .fin s n d => .fin (!s) n d

/-- The magnitude. -/
def XVal.abs : XVal → XVal
  | .nan => .nan
  | .inf _ => .inf false
  | .fin _ n d => .fin false n d

/-- Exact sum with the IEEE rules for infinities and for the sign of a zero (R81). -/
def XVal.add : XVal → XVal → XVal
  | .nan, _ => .nan
  | _, .nan => .nan
  | .inf s, .inf t => if s == t then .inf s else .nan
  | .inf s, _ => .inf s
  | _, .inf t => .inf t
  | .fin s n d, .fin t m e =>
    if n == 0 && m == 0 then .zero (s && t)
    else .ofInt ((XVal.fin s n d).num * e + (XVal.fin t m e).num * d) (d * e) false

/-- Exact product with the IEEE rules; zero times infinity is NaN. -/
def XVal.mul : XVal → XVal → XVal
  | .nan, _ => .nan
  | _, .nan => .nan
  | .inf s, .inf t => .inf (s != t)
  | .inf s, .fin t m _ => if m == 0 then .nan else .inf (s != t)
  | .fin s n _, .inf t => if n == 0 then .nan else .inf (s != t)
  | .fin s n d, .fin t m e => .fin (s != t) (n * m) (d * e)

/-- Exact quotient by a positive rational `p / q`. -/
def XVal.divBy (x : XVal) (p q : Nat) : XVal :=
  match x with
  | .fin s n d => .fin s (n * q) (d * p)
  | y => y

/-- Exact product with a power of two. -/
def XVal.scale2 (x : XVal) (k : Int) : XVal :=
  match x with
  | .fin s n d => if 0 ≤ k then .fin s (n * 2 ^ k.toNat) d else .fin s n (d * 2 ^ (-k).toNat)
  | y => y

/-- `x < y` on finite values and infinities, by value; false when either is a NaN (R80). -/
def XVal.lt : XVal → XVal → Bool
  | .nan, _ => false
  | _, .nan => false
  | .inf s, .inf t => s && !t
  | .inf s, .fin _ _ _ => s
  | .fin _ _ _, .inf t => !t
  | .fin s n d, .fin t m e => (XVal.fin s n d).num * e < (XVal.fin t m e).num * d

/-- Equality by value; −0 equals +0; a NaN equals nothing (R80). -/
def XVal.eqv (x y : XVal) : Bool :=
  !x.isNan && !y.isNan && !x.lt y && !y.lt x

/-- The total order of R81 on values that are not NaN: by value, and −0 below +0. -/
def XVal.below (x y : XVal) : Bool :=
  x.lt y || (x.isZero && y.isZero && x.neg? && !y.neg?)

/-- A running-maximum tracker takes a value (R81, R144): a NaN stays. -/
def trackMax (t : Option XVal) (v : XVal) : Option XVal :=
  match t with
  | none => some v
  | some m => if m.isNan || v.isNan then some .nan else if m.below v then some v else some m

/-- The value a maximum tracker reads as: −inf when empty (R144). -/
def readMax (t : Option XVal) : XVal := t.getD (.inf true)

/-! ### Binades and rounding -/

/-- ⌊log2 (n / d)⌋ for n, d > 0. -/
def floorLog2 (n d : Nat) : Int :=
  let k : Int := (Nat.log2 n : Int) - (Nat.log2 d : Int)
  -- 2^k and n/d differ by less than a factor of two either way
  if 0 ≤ k then (if n < d * 2 ^ k.toNat then k - 1 else k)
  else (if n * 2 ^ (-k).toNat < d then k - 1 else k)

/-- The quotient t = (n / d) / 2^q as a fraction over naturals. -/
def scaledFrac (n d : Nat) (q : Int) : Nat × Nat :=
  if 0 ≤ q then (n, d * 2 ^ q.toNat) else (n * 2 ^ (-q).toNat, d)

/-- A fraction rounded to nearest, ties to even. -/
def roundEven (n d : Nat) : Nat :=
  let k := n / d
  let r := n % d
  if 2 * r > d || (2 * r == d && k % 2 == 1) then k + 1 else k

/-- A signed fraction rounded to nearest, ties to even. -/
def roundEvenInt (num : Int) (den : Nat) : Int :=
  if num < 0 then -(roundEven num.natAbs den : Int) else roundEven num.natAbs den

/-! ### FP32 codes -/

/-- The canonical quiet NaN (Table 4-2). -/
def f32NaN : Word := 0x7FC00000#32
/-- +1.0. -/
def f32One : Word := 0x3F800000#32
/-- An FP32 infinity. -/
def f32Inf (neg : Bool) : Word := if neg then 0xFF800000#32 else 0x7F800000#32
/-- An FP32 zero. -/
def f32Zero (neg : Bool) : Word := if neg then 0x80000000#32 else 0#32

/-- Reading an FP32 code as a value (R55): subnormals become signed zeros, every NaN the one NaN. -/
def f32Val (c : Word) : XVal :=
  let s := c.getLsbD 31
  let e : Nat := (c.toNat / 2 ^ 23) % 256
  let f : Nat := c.toNat % 2 ^ 23
  if e == 255 then (if f == 0 then .inf s else .nan)
  else if e == 0 then .zero s
  else .scaled s (2 ^ 23 + f) ((e : Int) - 150)

/-- A code after R55: subnormals to signed zero, NaNs to the canonical NaN. -/
def f32Canon (c : Word) : Word :=
  let e := (c.toNat / 2 ^ 23) % 256
  let f := c.toNat % 2 ^ 23
  if e == 255 && f != 0 then f32NaN
  else if e == 0 then f32Zero (c.getLsbD 31)
  else c

/-- The FP32 code of a normal magnitude `m * 2^k` with m in [2^23, 2^24]; an overflow gives an infinity and a value below
2^-126 a zero (R123). -/
def f32Pack (s : Bool) (m : Nat) (k : Int) : Word :=
  let (m, k) := if m ≥ 2 ^ 24 then (m / 2, k + 1) else (m, k)
  let e : Int := k + 150
  if 255 ≤ e then f32Inf s
  else if e ≤ 0 then f32Zero s
  else BitVec.ofNat 32 ((if s then 2 ^ 31 else 0) + e.toNat * 2 ^ 23 + (m - 2 ^ 23))

/-- round32 of R123: nearest even with an unbounded exponent, flush below 2^-126, infinity beyond the range. -/
def round32 (x : XVal) : Word :=
  match x with
  | .nan => f32NaN
  | .inf s => f32Inf s
  | .fin s n d =>
    if n == 0 then f32Zero s
    else
      let k := floorLog2 n d - 23
      let (a, b) := scaledFrac n d k
      f32Pack s (roundEven a b) k

/-- round32 as a value. -/
def round32V (x : XVal) : XVal := f32Val (round32 x)

/-- FP32 NaN test on a code. -/
def f32IsNan (c : Word) : Bool := (f32Val c).isNan

/-! ### Element formats -/

/-- Element formats by the codes of Table 2-4. -/
inductive Fmt where
  | fp32 | bf16 | fp16 | e4m3 | e5m2 | e3m2 | e2m3 | e2m1 | int8 | int4 | int32 | mask1 | reserved
deriving DecidableEq, Repr

/-- The format of a format code (Table 2-4). -/
def Fmt.ofCode (c : BitVec 4) : Fmt :=
  match c.toNat with
  | 0 => .fp32 | 1 => .bf16 | 2 => .fp16 | 3 => .e4m3 | 4 => .e5m2 | 5 => .e3m2 | 6 => .e2m3 | 7 => .e2m1
  | 8 => .int8 | 9 => .int4 | 10 => .int32 | 11 => .mask1 | _ => .reserved

/-- Bits per element (Table 2-4); a reserved format has none. -/
def Fmt.bits : Fmt → Nat
  | .fp32 => 32 | .bf16 => 16 | .fp16 => 16 | .e4m3 => 8 | .e5m2 => 8 | .e3m2 => 6 | .e2m3 => 6 | .e2m1 => 4
  | .int8 => 8 | .int4 => 4 | .int32 => 32 | .mask1 => 1 | .reserved => 0

/-- Exponent bits (Table 4-1). -/
def Fmt.eBits : Fmt → Nat
  | .fp32 => 8 | .bf16 => 8 | .fp16 => 5 | .e4m3 => 4 | .e5m2 => 5 | .e3m2 => 3 | .e2m3 => 2 | .e2m1 => 2 | _ => 0

/-- Fraction bits M (Table 4-1). -/
def Fmt.mBits : Fmt → Nat
  | .fp32 => 23 | .bf16 => 7 | .fp16 => 10 | .e4m3 => 3 | .e5m2 => 2 | .e3m2 => 2 | .e2m3 => 3 | .e2m1 => 1 | _ => 0

/-- Exponent bias (Table 4-1). -/
def Fmt.bias : Fmt → Nat
  | .fp32 => 127 | .bf16 => 127 | .fp16 => 15 | .e4m3 => 7 | .e5m2 => 15 | .e3m2 => 3 | .e2m3 => 1 | .e2m1 => 1 | _ => 0

/-- The code of the largest finite magnitude (Table 4-1). -/
def Fmt.maxCode : Fmt → Nat
  | .fp32 => 0x7F7FFFFF | .bf16 => 0x7F7F | .fp16 => 0x7BFF | .e4m3 => 0x7E | .e5m2 => 0x7B | .e3m2 => 0x1F | .e2m3 => 0x1F
  | .e2m1 => 0x7 | _ => 0

/-- FP32 and BF16, the long formats (R78). -/
def Fmt.isLong : Fmt → Bool
  | .fp32 => true
  | .bf16 => true
  | _ => false

/-- Formats with infinity (Table 4-2). -/
def Fmt.hasInf : Fmt → Bool
  | .fp32 => true | .bf16 => true | .fp16 => true | .e5m2 => true | _ => false

/-- FP6 and FP4, the formats without NaN. -/
def Fmt.noNan : Fmt → Bool
  | .e3m2 => true | .e2m3 => true | .e2m1 => true | _ => false

/-- The floating-point element formats (Table 4-1). -/
def Fmt.isFloat : Fmt → Bool
  | .int8 => false | .int4 => false | .int32 => false | .mask1 => false | .reserved => false | _ => true

/-- The sign bit of a code. -/
def Fmt.signBit (f : Fmt) (code : Nat) : Bool := code / 2 ^ (f.bits - 1) % 2 == 1

/-- The value R73 gives a code that is neither infinity nor NaN. -/
def Fmt.finite (f : Fmt) (code : Nat) : XVal :=
  let s := f.signBit code
  let e : Nat := code / 2 ^ f.mBits % 2 ^ f.eBits
  let m := code % 2 ^ f.mBits
  let mag := if e == 0 then m else 2 ^ f.mBits + m
  let k : Int := (if e == 0 then 1 else (e : Int)) - f.bias - f.mBits
  .scaled s mag k

/-- Is the code a NaN (Table 4-2)? -/
def Fmt.isNanCode (f : Fmt) (code : Nat) : Bool :=
  let e := code / 2 ^ f.mBits % 2 ^ f.eBits
  let m := code % 2 ^ f.mBits
  match f with
  | .e4m3 => e == 15 && m == 7
  | .fp32 | .bf16 | .fp16 | .e5m2 => e == 2 ^ f.eBits - 1 && m != 0
  | _ => false

/-- Is the code a signalling NaN (R74)? -/
def Fmt.isSnanCode (f : Fmt) (code : Nat) : Bool :=
  f.isNanCode code && f.hasInf && code / 2 ^ (f.mBits - 1) % 2 == 0

/-- Is the code an infinity (Table 4-2)? -/
def Fmt.isInfCode (f : Fmt) (code : Nat) : Bool :=
  f.hasInf && code / 2 ^ f.mBits % 2 ^ f.eBits == 2 ^ f.eBits - 1 && code % 2 ^ f.mBits == 0

/-- The value of any code by R73 and Table 4-2, without the flush of R76. -/
def Fmt.value (f : Fmt) (code : Nat) : XVal :=
  if f.isNanCode code then .nan else if f.isInfCode code then .inf (f.signBit code) else f.finite code

/-- The max of a format as a fraction (Table 4-1). -/
def Fmt.max (f : Fmt) : XVal := f.finite f.maxCode

/-- The canonical NaN code (Table 4-2). -/
def Fmt.nanCode : Fmt → Nat
  | .fp32 => 0x7FC00000 | .bf16 => 0x7FC0 | .fp16 => 0x7E00 | .e4m3 => 0x7F | .e5m2 => 0x7E | _ => 0

/-- The code of an infinity (Table 4-2). -/
def Fmt.infCode (f : Fmt) (neg : Bool) : Nat :=
  (2 ^ f.eBits - 1) * 2 ^ f.mBits + (if neg then 2 ^ (f.bits - 1) else 0)

/-- A code with its sign bit set as given. -/
def Fmt.withSign (f : Fmt) (mag : Nat) (neg : Bool) : Nat := mag + (if neg then 2 ^ (f.bits - 1) else 0)

/-! ### Rounding to a format -/

/-- The grid step exponent of R84 for a magnitude n / d. -/
def gridExp (f : Fmt) (n d : Nat) : Int :=
  let ex := floorLog2 n d
  (if f.isLong then ex else max ex (1 - (f.bias : Int))) - f.mBits

/-- The integer position on the grid (R84): `stoch` gives the 16-bit random value under STOCH. -/
def gridRound (n d : Nat) (q : Int) (stoch : Option Nat) : Nat :=
  let (a, b) := scaledFrac n d q
  match stoch with
  | none => roundEven a b
  | some rnd => if a % b * 2 ^ 16 / b + rnd ≥ 2 ^ 16 then a / b + 1 else a / b

/-- round_to of R84 on a finite value: the rounded value and the overflow indication. -/
def roundTo (f : Fmt) (stoch : Option Nat) (x : XVal) : XVal × Bool :=
  match x with
  | .fin s n d =>
    if n == 0 then (x, false)
    else
      let q := gridExp f n d
      let m := gridRound n d q stoch
      let r := XVal.scaled s m q
      (r, f.max.lt r.abs)
  | y => (y, false)

/-- The code of a finite value that lies on the format's grid. -/
def encode (f : Fmt) (x : XVal) : Nat :=
  match x with
  | .fin s n d =>
    if n == 0 then f.withSign 0 s
    else
      let ex := max (floorLog2 n d) (1 - (f.bias : Int))
      let (a, b) := scaledFrac n d (ex - f.mBits)
      let m := a / b
      let e : Nat := if m < 2 ^ f.mBits then 0 else (ex + f.bias).toNat
      f.withSign (e * 2 ^ f.mBits + m % 2 ^ f.mBits) s
  | .inf s => f.infCode s
  | .nan => f.nanCode

/-- BF16 rounding of a state point under narrow_state (R91): stochastic, flush below 2^-126, infinity on overflow, no flag.
The result is kept as the FP32 code of the BF16 value. -/
def roundState (rnd : Nat) (x : XVal) : Word :=
  match x with
  | .fin s _ _ =>
    let (r, ovf) := roundTo .bf16 (some rnd) x
    if ovf then f32Inf s else round32 r
  | y => round32 y

end Sys2Proof
end

