-- ==== Sys2Proof/Machine/Ops.lean ====
section
/-! DEFINITION. Named operations on the state: scratchpad bytes, error logs, interrupt causes, trace events, unit and guest states, pace and sprint. -/

namespace Sys2Proof.Machine

/-- A step's answer. -/
abbrev Out := Host.Outcome State Fault Refusal

/-! ### Scratchpad memory -/

/-- Bytes of the cluster scratchpad (01_boundary.md): 48 MB. -/
def scratchSize : Nat := 0x3000000

/-- What an unlisted byte reads as (log 1). -/
def memDefault : Byte := 0

/-- One byte of memory. -/
def memByte : List Host.Cell → Nat → Byte
  | [], _ => memDefault
  | (k, v) :: t, a => if k = a then v else memByte t a

/-- The memory with the entry of one address removed. -/
def memDrop : List Host.Cell → Nat → List Host.Cell
  | [], _ => []
  | (k, v) :: t, a => if k = a then t else (k, v) :: memDrop t a

/-- The memory with one entry inserted in rising order. -/
def memInsert : List Host.Cell → Nat → Byte → List Host.Cell
  | [], a, b => [(a, b)]
  | (k, v) :: t, a, b => if a < k then (a, b) :: (k, v) :: t else if k = a then (a, b) :: t else (k, v) :: memInsert t a b

/-- One byte written; writing the default removes the entry. -/
def memPut (m : List Host.Cell) (a : Nat) (b : Byte) : List Host.Cell :=
  if b = memDefault then memDrop m a else memInsert m a b

/-- The bits of a byte selected by a mask replaced. -/
def mergeByte (old mask data : Byte) : Byte := (old &&& ~~~mask) ||| (data &&& mask)

/-- Bytes to write, as (address, mask of the bits written, data). -/
abbrev ByteWrites := List (Nat × Byte × Byte)

/-- The bytes of a list of writes written into memory, in its order. -/
def putBytes (m : List Host.Cell) (ws : ByteWrites) : List Host.Cell :=
  ws.foldl (fun m w => memPut m w.1 (mergeByte (memByte m w.1) w.2.1 w.2.2)) m

/-- The natural number of n bytes from an address, little-endian (R2). -/
def memNat (m : List Host.Cell) (a : Nat) : Nat → Nat
  | 0 => 0
  | n + 1 => (memByte m a).toNat + 256 * memNat m (a + 1) n

/-- One little-endian word. -/
def memWord (m : List Host.Cell) (a : Nat) : Word := BitVec.ofNat 32 (memNat m a 4)

/-- The n bytes of a number written little-endian. -/
def memPutNat (m : List Host.Cell) (a v : Nat) : Nat → List Host.Cell
  | 0 => m
  | n + 1 => memPutNat (memPut m a (BitVec.ofNat 8 v)) (a + 1) (v / 256) n

/-- Words written from an address upward. -/
def memPutWords (m : List Host.Cell) (a : Nat) : List Word → List Host.Cell
  | [] => m
  | w :: t => memPutWords (memPutNat m a w.toNat 4) (a + 4) t

/-- `w` bits from bit position `pos`, least significant first (R33). -/
def memBits (m : List Host.Cell) (pos w : Nat) : Nat :=
  memNat m (pos / 8) ((pos % 8 + w + 7) / 8) / 2 ^ (pos % 8) % 2 ^ w

/-- Bytes made unspecified, one free value each (R199, R205). -/
def memScramble (m : List Host.Cell) (draw a : Nat) : Nat → List Host.Cell
  | 0 => m
  | n + 1 => memScramble (memPut m a (Config.freeByte draw)) (draw + 1) (a + 1) n

/-- Each byte either new or old, as a free choice says (R205). -/
def memMix (m : List Host.Cell) (draw a : Nat) : List Byte → List Host.Cell
  | [] => m
  | b :: t => memMix (if Config.freeNat draw % 2 = 1 then memPut m a b else m) (draw + 1) (a + 1) t

/-- The canonical form: addresses strictly rising above `lo`, no default byte listed. -/
def memWfFrom : Nat → List Host.Cell → Bool
  | _, [] => true
  | lo, (k, v) :: t => decide (lo ≤ k) && decide (v ≠ memDefault) && memWfFrom (k + 1) t

/-- The canonical form of memory. -/
def Memory.wf (m : List Host.Cell) : Bool := memWfFrom 0 m

/-! ### Pages: causes and error logs -/

/-- Page p's header changed. -/
def State.updHdr (s : State) (p : PageId) (f : PageHdr → PageHdr) : State :=
  { s with hdr := vPut s.hdr p (f (vAt s.hdr p)) }

/-- One ISTAT bit set (R195). -/
def setCause (s : State) (p : PageId) (bit : Nat) : State :=
  s.updHdr p fun h => { h with istat := h.istat ||| (1#16 <<< bit) }

/-- The code of a unit state (Table 11-1). -/
def UnitState.code : UnitState → Nat
  | .off => 0 | .reset => 1 | .calibrate => 2 | .bist => 3 | .idle => 4 | .run => 5 | .drain => 6 | .hold => 7 | .fault => 8

/-- The code of a guest state (Table 2-8). -/
def GuestState.code : GuestState → Nat
  | .detached => 0 | .active => 1 | .paused => 2 | .draining => 3

/-- A trace event (R253): recorded when its group is enabled in the governing UM_TR_CTRL value and recording is not stopped;
lost when the queue of 8 is full. -/
def traceEvent (s : State) (gov : Word) (group : Nat) (ent : TrEnt) : State :=
  if gov.getLsbD 0 && gov.getLsbD (8 + group) && !s.trace.stopped then
    if s.trace.queue.length < 8 then { s with trace := { s.trace with queue := s.trace.queue ++ [ent] } }
    else setCause { s with trace := { s.trace with lost := satAdd s.trace.lost 1 } } 15 1
  else s

/-- Word 1 of an entry (Table 15-7): kind, ctx (3 = none) and guest. -/
def trWord1 (kind ctx guest : Nat) : Word := BitVec.ofNat 32 (kind + ctx * 2 ^ 8 + guest * 2 ^ 16)

/-- An event that belongs to no context and no guest, governed by the base value (R253). -/
def traceBase (s : State) (group kind : Nat) (a b : Word) : State :=
  traceEvent s s.trace.ctrl group ⟨s.trace.ticks, trWord1 kind 3 0, a, b⟩

/-- A logged event (R196): the count rises, ISTAT.ERR is set, and the record is written while no record is held. -/
def logEvent (s : State) (p : PageId) (code : BitVec 8) (status : BitVec 3) (arg : BitVec 20) : State :=
  let s := s.updHdr p fun h =>
    let h := { h with errCnt := satAdd h.errCnt 1, istat := h.istat ||| 0x8000#16 }
    if h.errValid then h else { h with errCode := code, errStatus := status, errArg := arg, errValid := true }
  traceBase s 6 0x30 (BitVec.ofNat 32 (p.toNat + code.toNat * 2 ^ 8 + status.toNat * 2 ^ 16)) (arg.zeroExtend 32)

/-- Guest status codes (Table 2-7). -/
def stOk : BitVec 3 := 0
def stIllegal : BitVec 3 := 1
def stBadField : BitVec 3 := 2
def stBadRange : BitVec 3 := 3
def stStale : BitVec 3 := 4
def stDetached : BitVec 3 := 5

/-- R179: the write has no effect and is logged on its page with code UNIT_STATE and the page offset. -/
def refuseState (s : State) (p : PageId) (off : BitVec 12) : State := logEvent s p 0x81 stIllegal (off.zeroExtend 20)

/-- A write with more than one command bit: ignored and logged as CMD_MULTI. -/
def refuseMulti (s : State) (p : PageId) (off : BitVec 12) : State := logEvent s p 0x82 stBadField (off.zeroExtend 20)

/-! ### Contexts and unit state -/

/-- The itinerary of a configuration context. -/
def State.ctx (s : State) (c : Bool) : Option Ctx := if c then s.ctx1 else s.ctx0

/-- A context replaced. -/
def State.setCtx (s : State) (c : Bool) (x : Option Ctx) : State := if c then { s with ctx1 := x } else { s with ctx0 := x }

/-- Itineraries in execution, UM_GSTAT.in_exec. -/
def State.inExec (s : State) : Nat := (if s.ctx0.isSome then 1 else 0) + (if s.ctx1.isSome then 1 else 0)

/-- A unit-state change with its STATE event and the causes of page 0 (Table 12-2, Table 15-8). -/
def setUnit (s : State) (u : UnitState) : State :=
  let old := s.unit
  let s := { s with unit := u }
  let s := if u = .fault then setCause s 0 0 else s
  let s := if u = .idle ∧ (old = .bist ∨ old = .drain) then setCause s 0 1 else s
  traceBase s 2 0x10 (BitVec.ofNat 32 (old.code + u.code * 2 ^ 4))
    (BitVec.ofNat 32 (s.faultCause.toNat + s.resetCause.toNat * 2 ^ 8))

/-- The states in which accepted work can proceed and complete. -/
def State.running (s : State) : Bool := s.unit = .idle || s.unit = .run || s.unit = .drain || s.unit = .hold

/-! ### Guests -/

/-- Guest g changed. -/
def State.updGuest (s : State) (g : GuestId) (f : Guest → Guest) : State := { s with guests := vPut s.guests g (f (vAt s.guests g)) }

/-- Guest g. -/
def State.guest (s : State) (g : GuestId) : Guest := vAt s.guests g

/-- A guest changes state, with its GUEST event (Table 15-8). -/
def setGuestState (s : State) (g : GuestId) (st : GuestState) : State :=
  let old := (s.guest g).state
  let s := s.updGuest g fun x => { x with state := st }
  let x := s.guest g
  traceEvent s s.trace.ctrl 1
    ⟨s.trace.ticks, trWord1 0x08 3 g.toNat, BitVec.ofNat 32 (old.code + st.code * 2 ^ 4), BitVec.ofNat 32 (x.head.toNat + x.tail.toNat * 2 ^ 16)⟩

/-- The DONE bit of a guest (R44). -/
def setDone (s : State) (g : GuestId) : State := { s with done := s.done ||| (1#64 <<< g.toNat) }

/-- The guest becomes DETACHED and its DONE bit is set (R47). -/
def finishDetach (s : State) (g : GuestId) : State :=
  setDone (setGuestState (s.updGuest g fun x => { x with discard := false, record := none }) g .detached) g

/-! ### Instance flags -/

/-- A flag set and its raisings merged into UM_EX_FLAGS and the event counters; ISTAT.FLAG follows UM_EX_FMASK (R192, R193,
Table 12-2). -/
def raiseInstance (s : State) (set : BitVec 12) (counts : Vector Nat (2 ^ 4)) : State :=
  let s := { s with exc := { s.exc with flags := s.exc.flags ||| set, evCnt := Vector.zipWith satAdd s.exc.evCnt counts } }
  if set &&& s.exc.fmask = 0 then s else setCause s 8 0

/-- One raising of an instance event flag: TABLE_GEN, WATCHDOG or TWIN_MISMATCH. -/
def raiseEvent (s : State) (f : Flag) : State :=
  raiseInstance s (1#12 <<< f.bit) (vPut (vAll 4 0) (BitVec.ofNat 4 f.bit) 1)

/-! ### Pace and sprint (R211-R218) -/

/-- A pace value as the budget reads it: 0x0000-0x00FF read as 0x0100 (R213). -/
def paceFloor (v : BitVec 16) : Nat := if v.toNat < 0x100 then 0x100 else v.toNat

/-- The sources in force and their values (R213), in the order of the PACE event's bits. -/
def paceSources (p : Power) : List (Bool × Nat) :=
  [(true, paceFloor p.winMgr), (true, paceFloor p.winCap), (p.rvkPace, p.nombeats.toNat / 2), (p.protoPace, p.nombeats.toNat),
   (p.guardPace, p.nombeats.toNat / 4)]

/-- The effective budget B: the least of the sources in force (R213). -/
def effBudget (p : Power) : Nat := (paceSources p).foldl (fun b x => if x.1 then min b x.2 else b) 0xFFFF

/-- A row engine that has issued n beats has spent the window's budget. 0xFFFF of PACE and UM_PW_PACECAP is no limit (R213); where the
protocol pace holds, an eff of 0xFFFF is its nombeats. -/
def budgetSpent (p : Power) (n : Nat) : Bool := decide (p.eff.toNat ≤ n) && (p.eff != 0xFFFF || p.protoPace)

/-- The sources at the minimum, as PACE event word 3 names them. -/
def paceMinBits (p : Power) : Nat :=
  let l := (paceSources p).map fun x => if x.1 && x.2 == effBudget p then 1 else 0
  l.foldr (fun b acc => b + 2 * acc) 0

/-- UM_PW_PACE.eff set from the sources in force, with the PACE event when it changes. In RESET and CALIBRATE a pace takes its nombeats as
it then is, 0 before the first count (log 94). -/
def setEff (s : State) : State :=
  let b := BitVec.ofNat 16 (effBudget s.power)
  if b = s.power.eff then s
  else
    let s := { s with power := { s.power with eff := b } }
    traceBase s 4 0x21 (b.zeroExtend 32) (BitVec.ofNat 32 (paceMinBits s.power))

/-- A grant in force ends: granted reads 0, SPRINT_OFF is set, and the SPRINT event names the reason (R215). -/
def endGrant (s : State) (reason : Nat) : State :=
  if s.power.granted then
    let s := setCause { s with power := { s.power with granted := false } } 10 1
    traceBase s 4 0x20 (BitVec.ofNat 32 reason) (s.power.vack.zeroExtend 32)
  else s

/-- The conditions of R214. -/
def sprintWanted (s : State) : Bool :=
  s.power.sprintEn && s.power.accountOk && !s.power.clamped && (s.unit = .run || s.unit = .drain) &&
  (s.power.recent || s.inExec != 0) && !s.power.holdoff

/-- SPRINT_REQ follows R214; when it falls a grant ends (R215). -/
def updReq (s : State) : State :=
  let w := sprintWanted s
  let s := { s with power := { s.power with sprintReq := w } }
  if w then s else endGrant s 2

/-- A protocol event of R211 or R215. -/
def protocolEvent (s : State) : State :=
  setCause { s with power := { s.power with proto := satAdd s.power.proto 1 } } 10 5

/-- VDD_U is in the sprint region without an acknowledged sprint code: the protocol event, and the protocol pace until it leaves (R211). -/
def enterUnlicensed (s : State) : State :=
  setEff (protocolEvent { s with power := { s.power with protoPace := true, protoCause := true } })

/-- The account clamps when it reaches the limit, and the clamp is released when it no longer does (R218). -/
def judgeClamp (s : State) : State :=
  if s.power.sprLim.toNat ≤ s.power.sprUsed.toNat then
    if s.power.clamped then s
    else
      let s := setCause { s with power := { s.power with clamped := true, rvkPace := s.power.rvkPace || s.power.vsprint,
                                                             rvkCause := s.power.rvkCause || s.power.vsprint } } 10 2
      setEff (updReq (endGrant s 3))
  else updReq { s with power := { s.power with clamped := false } }

/-- The operation writes the save area (R112). -/
def XferOp.isSave : XferOp → Bool
  | .saveSlots | .saveMaps => true
  | _ => false

end Sys2Proof.Machine
end

