-- ==== Sys2Proof/Machine/Operands.lean ====
section
/-! DEFINITION. The fields of an itinerary record and of its descriptors, addressing, areas, and which elements a mask keeps
(R29-R39). -/

namespace Sys2Proof.Machine

/-! ### Header -/

/-- Header word k (Table 2-2). -/
def hw (r : Record) (k : Nat) : Word := r.extractLsb' (32 * k) 32

/-- Classes of Table 2-5. -/
inductive Cls where
  | elem | gate | normFwd | normBwd | stat | dot | smax | lse | xent | conv | amax | perm | reserved
deriving DecidableEq, Repr

/-- The class of a class code. -/
def Cls.ofCode (c : BitVec 4) : Cls :=
  match c.toNat with
  | 0 => .elem | 1 => .gate | 2 => .normFwd | 3 => .normBwd | 4 => .stat | 5 => .dot | 6 => .smax | 7 => .lse | 8 => .xent
  | 9 => .conv | 10 => .amax | 11 => .perm | _ => .reserved

/-- H0 and H1 fields (Table 2-2). -/
def rCls (r : Record) : Cls := .ofCode (r.extractLsb' 0 4)
def rBlend (r : Record) : Nat := (r.extractLsb' 4 6).toNat
def rGrade (r : Record) : Nat := (r.extractLsb' 10 2).toNat
def rOverlay (r : Record) : Nat := (r.extractLsb' 12 4).toNat
def rMaskMode (r : Record) : Nat := (r.extractLsb' 16 3).toNat
def rFillZero (r : Record) : Bool := r.getLsbD 19
def rRounding (r : Record) : Nat := (r.extractLsb' 20 2).toNat
def rSat (r : Record) : Bool := r.getLsbD 22
def rNarrow (r : Record) : Bool := r.getLsbD 23
def rStrict (r : Record) : Bool := r.getLsbD 24
def rAxis (r : Record) : Bool := r.getLsbD 25
def rRms (r : Record) : Bool := r.getLsbD 26
def rTaste (r : Record) : Bool := r.getLsbD 27
def rVslot (r : Record) : SlotId := r.extractLsb' 32 10
def rVslotEn (r : Record) : Bool := r.getLsbD 42
def rSummary (r : Record) : Nat := (r.extractLsb' 43 2).toNat
def rIntr (r : Record) : Bool := r.getLsbD 45
def rSummIntr (r : Record) : Bool := r.getLsbD 46
def rStopover (r : Record) : Bool := r.getLsbD 47
def rTag (r : Record) : BitVec 16 := r.extractLsb' 48 16
def rSeed (r : Record) : BitVec 64 := r.extractLsb' 64 64
def rStep (r : Record) : Word := hw r 4
def rParam (r : Record) : Word := hw r 5
def rMaskA (r : Record) : Int := (hw r 6).toInt
def rMaskB (r : Record) : Int := (hw r 7).toInt
def rGenExpect (r : Record) : Nat := (r.extractLsb' 312 8).toNat
def rSumBase (r : Record) : Nat := (r.extractLsb' 352 26).toNat

/-- Extents D0-D3 (R30). -/
def rD0 (r : Record) : Nat := (hw r 8).toNat + 1
def rD1 (r : Record) : Nat := (r.extractLsb' 288 24).toNat + 1
def rD2 (r : Record) : Nat := (r.extractLsb' 320 16).toNat + 1
def rD3 (r : Record) : Nat := (r.extractLsb' 336 16).toNat + 1

/-! ### Descriptors -/

/-- The operands' order in the record. -/
def Opd.pos : Opd → Nat
  | .in0 => 0 | .in1 => 1 | .in2 => 2 | .out0 => 3 | .out1 => 4

/-- Is the operand an output? -/
def Opd.isOut : Opd → Bool
  | .out0 => true | .out1 => true | _ => false

/-- All operands. -/
def allOpds : List Opd := [.in0, .in1, .in2, .out0, .out1]

/-- The descriptor of an operand (Table 2-1). -/
def rDesc (r : Record) (o : Opd) : Desc := r.extractLsb' (384 + 128 * o.pos) 128

/-- Descriptor fields (Table 2-3). -/
def dBase (d : Desc) : Nat := (d.extractLsb' 0 26).toNat
def dFmtCode (d : Desc) : BitVec 4 := d.extractLsb' 26 4
def dFmt (d : Desc) : Fmt := .ofCode (dFmtCode d)
def dScale (d : Desc) : Nat := (d.extractLsb' 30 3).toNat
def dBlockCode (d : Desc) : Nat := (d.extractLsb' 33 3).toNat
def dBlockDir (d : Desc) : Bool := d.getLsbD 36
def dHint (d : Desc) : Nat := (d.extractLsb' 37 2).toNat
def dRow (d : Desc) : Bool := d.getLsbD 39
def dPresent (d : Desc) : Bool := d.getLsbD 40
def dStride1 (d : Desc) : Nat := (d.extractLsb' 41 27).toNat
def dStride2 (d : Desc) : Nat := (d.extractLsb' 68 27).toNat
def dStride3 (d : Desc) : Nat := (d.extractLsb' 95 27).toNat
def dReserved (d : Desc) : BitVec 6 := d.extractLsb' 122 6

/-- Scale modes of Table 2-3. -/
def scNone : Nat := 0
def scVintage : Nat := 1
def scE8m0 : Nat := 2
def scE4m3 : Nat := 3
def scDqTable : Nat := 4
def scDqAffine : Nat := 5

/-- Is the scale mode a block mode? -/
def dIsBlock (d : Desc) : Bool := dScale d == scE8m0 || dScale d == scE4m3

/-- Block size B (Table 2-3). -/
def dBlock (d : Desc) : Nat := 8 * 2 ^ dBlockCode d

/-- The operand is present. -/
def rHas (r : Record) (o : Opd) : Bool := dPresent (rDesc r o)

/-! ### Addressing -/

/-- An index tuple of the iteration space. -/
structure Idx where
  i0 : Nat
  i1 : Nat
  i2 : Nat
  i3 : Nat
deriving DecidableEq, Repr

/-- Element number k of R33. -/
def dElem (d : Desc) (i : Idx) : Nat :=
  (if dRow d then 0 else i.i0) + i.i1 * dStride1 d + i.i2 * dStride2 d + i.i3 * dStride3 d

/-- Bit position of an element (R33). -/
def dPos (d : Desc) (i : Idx) : Nat := dBase d * 8 + dElem d i * (dFmt d).bits

/-- The linear index e of R34. -/
def linIndex (r : Record) (i : Idx) : Nat := ((i.i3 * rD2 r + i.i2) * rD1 r + i.i1) * rD0 r + i.i0

/-- The highest index along every dimension. -/
def lastIdx (r : Record) : Idx := ⟨rD0 r - 1, rD1 r - 1, rD2 r - 1, rD3 r - 1⟩

/-- Axis 1 acts only in STAT and AMAX (R53). -/
def isCol (r : Record) : Bool := rAxis r && (rCls r == .stat || rCls r == .amax)

/-- A byte interval: first byte and the byte after the last. -/
structure Area where
  lo : Nat
  hi : Nat
deriving DecidableEq, Repr

/-- Two intervals share a byte. -/
def Area.meets (a b : Area) : Bool := decide (a.lo < b.hi) && decide (b.lo < a.hi) && decide (a.lo < a.hi) && decide (b.lo < b.hi)

/-- The footprint of an operand (R35). -/
def footprint (r : Record) (d : Desc) : Area :=
  ⟨dBase d, (dPos d (lastIdx r) + (dFmt d).bits + 7) / 8⟩

/-- Base of the scale area: the first 64-byte boundary at or after the end of the footprint (R35). -/
def scaleBase (r : Record) (d : Desc) : Nat := ((footprint r d).hi + 63) / 64 * 64

/-- Extents and indices of R96: a dimension of stride 0 counts once. -/
def extE (n stride : Nat) : Nat := if stride = 0 then 1 else n
def idxJ (i stride : Nat) : Nat := if stride = 0 then 0 else i

/-- Ceiling division. -/
def cdiv (a b : Nat) : Nat := (a + b - 1) / b

/-- Number of blocks of a block-scaled operand (R96). -/
def blockCount (r : Record) (d : Desc) : Nat :=
  let e1 := extE (rD1 r) (dStride1 d)
  let e2 := extE (rD2 r) (dStride2 d)
  let e3 := extE (rD3 r) (dStride3 d)
  if dBlockDir d then rD0 r * cdiv e1 (dBlock d) * e2 * e3 else cdiv (rD0 r) (dBlock d) * e1 * e2 * e3

/-- The block of an element (R96). -/
def blockOf (r : Record) (d : Desc) (i : Idx) : Nat :=
  let e1 := extE (rD1 r) (dStride1 d)
  let e2 := extE (rD2 r) (dStride2 d)
  let j1 := idxJ i.i1 (dStride1 d)
  let j2 := idxJ i.i2 (dStride2 d)
  let j3 := idxJ i.i3 (dStride3 d)
  if dBlockDir d then ((j3 * e2 + j2) * cdiv e1 (dBlock d) + j1 / dBlock d) * rD0 r + i.i0
  else ((j3 * e2 + j2) * e1 + j1) * cdiv (rD0 r) (dBlock d) + i.i0 / dBlock d

/-- The scale area of an operand, empty when its scale mode has none (R35). -/
def scaleArea (r : Record) (d : Desc) : Area :=
  let b := scaleBase r d
  if dIsBlock d then ⟨b, b + blockCount r d⟩
  else if dScale d == scDqAffine then ⟨b, b + 8⟩
  else ⟨b, b⟩

/-- Rows of the iteration space, or columns in column mode (R36, R204). -/
def rowCount (r : Record) : Nat := (if isCol r then rD0 r else rD1 r) * rD2 r * rD3 r

/-- The summary area (R204), when summary asks for one. -/
def sumArea (r : Record) : Option Area :=
  if rSummary r = 2 then some ⟨rSumBase r, rSumBase r + 64⟩
  else if rSummary r = 3 then some ⟨rSumBase r, rSumBase r + 64 + 16 * rowCount r⟩
  else none

/-- Footprint and scale area of a present operand. -/
def opdAreas (r : Record) (o : Opd) : List Area :=
  if rHas r o then [footprint r (rDesc r o), scaleArea r (rDesc r o)] else []

/-- Areas the itinerary writes: output footprints, their scale areas, the summary area (R13). -/
def outAreas (r : Record) : List Area := opdAreas r .out0 ++ opdAreas r .out1 ++ (sumArea r).toList

/-- Areas that 0x23 keeps off the rings: what is written, and the scale areas of the inputs (R40, log 20). -/
def ringAreas (r : Record) : List Area :=
  outAreas r ++ ([Opd.in0, .in1, .in2].filter (rHas r)).map fun o => scaleArea r (rDesc r o)

/-- Every area the itinerary touches. -/
def allAreas (r : Record) : List Area := opdAreas r .in0 ++ opdAreas r .in1 ++ opdAreas r .in2 ++ outAreas r

/-- Every area lies inside the scratchpad (R35). -/
def areasInside (r : Record) : Bool := (allAreas r).all fun a => decide (a.hi ≤ scratchSize)

/-! ### Poison and codes -/

/-- Some byte of an interval of bits lies in a poisoned 64-byte segment (R18). -/
def bitsPoisoned (p : List Nat) (pos n : Nat) : Bool :=
  p.any fun seg => decide (pos / 512 ≤ seg) && decide (seg ≤ (pos + n - 1) / 512)

/-- The code of an element. -/
def readCode (m : List Host.Cell) (d : Desc) (i : Idx) : Nat := memBits m (dPos d i) (dFmt d).bits

/-- The element lies in a poisoned segment. -/
def elemPoisoned (p : List Nat) (d : Desc) (i : Idx) : Bool := bitsPoisoned p (dPos d i) (dFmt d).bits

/-- A two's-complement code of w bits. -/
def signedOf (w code : Nat) : Int := if code / 2 ^ (w - 1) % 2 == 1 then (code : Int) - 2 ^ w else code

/-! ### Reads (R14, R18, R41, R69, R76, R94, R163, R169) -/

/-- Classes whose first pass writes: ELEM, GATE and CONV. -/
def onePassWrite (r : Record) : Bool := rCls r == .elem || rCls r == .gate || rCls r == .conv

/-- Classes with a second pass (Table 3-7). -/
def hasPass2 (r : Record) : Bool :=
  match rCls r with
  | .normFwd | .normBwd | .smax | .perm => true
  | .xent => rHas r .out1
  | _ => false

/-- The mask reads in2: a MASK1 tensor, or an INT32 length tensor. -/
def maskReads (r : Record) : Bool := rMaskMode r == 1 || (rMaskMode r == 4 && rHas r .in2)

/-- The operands that pass 1 stages (Table 3-10). -/
def stagedOpds (r : Record) : List Opd :=
  match rCls r with
  | .normFwd | .smax | .perm => [.in0]
  | .normBwd => [.in0, .in1]
  | .xent => if rHas r .out1 then [.in0] else []
  | _ => []

/-- staged_bytes of R69. -/
def stagedBytes (r : Record) : Nat := ((stagedOpds r).map fun o => cdiv (rD0 r * (dFmt (rDesc r o)).bits) 512 * 64).sum

/-- A row is staged (R69). -/
def rowStaged (r : Record) : Bool := decide (stagedBytes r ≤ 131072)

/-- The code of the first read serves every later use of the element: in a class that writes in its only pass, for a staged operand,
and for the mask, whose decision is made once (R69, R100, R169). Any other pass reads the scratchpad again. -/
def keepsCode (r : Record) (o : Opd) : Bool :=
  onePassWrite r || ((stagedOpds r).contains o && rowStaged r) || (o == .in2 && maskReads r)

/-- The scratchpad as the reads of an itinerary find it: the bits that writes of itineraries replaced since its start are as they were, its
own because each element is read before it is replaced (R14, R41), those of the other because no result depends on timing (R6). -/
def readView (s : State) (c : Ctx) : List Host.Cell := putBytes s.mem c.before

/-- The item number of an element of an operand: its linear index, one for the whole row in a (row) operand. -/
def itemOf (r : Record) (o : Opd) (i : Idx) : Nat := linIndex r (if dRow (rDesc r o) then { i with i0 := 0 } else i)

/-- What the itinerary's first read of an item returned. -/
def firstRead (c : Ctx) (o : Opd) (scale : Bool) (n : Nat) : Option Taken :=
  c.taken.find? fun t => t.opd == o && t.scale == scale && t.item == n

/-- An element as its itinerary reads it: its code, and whether its segment was poisoned at the first read, which holds for every
later one (R18). -/
def fetch (s : State) (c : Ctx) (o : Opd) (i : Idx) : Nat × Bool :=
  let d := rDesc c.it o
  let now := readCode (readView s c) d i
  match firstRead c o false (itemOf c.it o i) with
  | some t => (if keepsCode c.it o then t.code else now, t.poisoned)
  | none => (now, elemPoisoned s.poison d i)

/-- A scale item as its itinerary reads it: the n bytes from an address, read once (R94, R96). -/
def fetchScale (s : State) (c : Ctx) (o : Opd) (item a n : Nat) : Nat × Bool :=
  match firstRead c o true item with
  | some t => (t.code, t.poisoned)
  | none => (memNat (readView s c) a n, bitsPoisoned s.poison (8 * a) (8 * n))

/-- The block code of an element's block. -/
def fetchBlock (s : State) (c : Ctx) (o : Opd) (i : Idx) : Nat × Bool :=
  let d := rDesc c.it o
  fetchScale s c o (blockOf c.it d i) (scaleBase c.it d + blockOf c.it d i) 1

/-- The area of a DQ_AFFINE operand as 64 bits: a in the low half, z in the high half (R35). -/
def fetchArea (s : State) (c : Ctx) (o : Opd) : Nat × Bool := fetchScale s c o 0 (scaleBase c.it (rDesc c.it o)) 8

/-- One first read noted. -/
def noteTaken (c : Ctx) (o : Opd) (scale : Bool) (item : Nat) (x : Nat × Bool) : Ctx :=
  match firstRead c o scale item with
  | some _ => c
  | none => { c with taken := ⟨o, scale, item, x.1, x.2⟩ :: c.taken }

/-- The first reads of one element of an operand: its code and its scale. -/
def noteRead (s : State) (c : Ctx) (o : Opd) (i : Idx) : Ctx :=
  let d := rDesc c.it o
  if !rHas c.it o then c
  else
    let c := noteTaken c o false (itemOf c.it o i) (fetch s c o i)
    if dIsBlock d then noteTaken c o true (blockOf c.it d i) (fetchBlock s c o i)
    else if dScale d == scDqAffine then noteTaken c o true 0 (fetchArea s c o)
    else c

/-- The first reads of a row as a whole: its label and its length (R39, R167). -/
def noteRow (s : State) (c : Ctx) (i : Idx) : Ctx :=
  let c := if rCls c.it == .xent then noteRead s c .in1 i else c
  if rMaskMode c.it == 4 then noteRead s c .in2 i else c

/-! ### Masks (R39) -/

/-- Length L of a row under LENGTH, clamped to 0..D0; a poisoned length is 0 (Table 1-8). -/
def rowLength (s : State) (c : Ctx) (i : Idx) : Nat :=
  let r := c.it
  if rMaskMode r != 4 then rD0 r
  else
    let l : Int :=
      if rHas r .in2 then
        let x := fetch s c .in2 i
        if x.2 then 0 else signedOf 32 x.1
      else rMaskA r
    min l.toNat (rD0 r)

/-- Is the element kept (R39)? A poisoned mask bit drops it (Table 1-8). -/
def kept (s : State) (c : Ctx) (i : Idx) : Bool :=
  let r := c.it
  match rMaskMode r with
  | 1 => let x := fetch s c .in2 i; !x.2 && x.1 == 1
  | 2 => decide ((i.i0 : Int) ≤ i.i1 + rMaskA r)
  | 3 => decide (rMaskA r ≤ (i.i0 : Int) - i.i1) && decide ((i.i0 : Int) - i.i1 ≤ rMaskB r)
  | 4 => decide (i.i0 < rowLength s c i)
  | _ => true

/-- The data inputs that a pass reads element by element: PERM reads src in pass 1 and index in pass 2, NORM_FWD its gamma and beta in
pass 2 alone; XENT's label is read when the row is taken. -/
def passOpds (r : Record) (scan : Bool) : List Opd :=
  match rCls r with
  | .perm => if scan then [.in0] else [.in1]
  | .normFwd => if scan then [.in0] else [.in0, .in1, .in2]
  | .xent => [.in0]
  | _ => if maskReads r then [.in0, .in1] else [.in0, .in1, .in2]

/-- The first reads of one element: its mask bit, and its data where the mask keeps it and its row is not ignored (R67, R167). -/
def noteElem (s : State) (scan ignored : Bool) (c : Ctx) (i : Idx) : Ctx :=
  let c := if maskReads c.it then noteRead s c .in2 i else c
  if ignored || !kept s c i then c else (passOpds c.it scan).foldl (fun c o => noteRead s c o i) c

/-- The first reads of a beat over some elements of a row or of columns. -/
def noteReads (s : State) (c : Ctx) (scan ignored : Bool) (l : List Idx) : Ctx := l.foldl (noteElem s scan ignored) c

/-- Flags that reading the mask raises: INVALID for a poisoned mask bit, and for a poisoned length once in its row (log 22). -/
def maskFlags (s : State) (c : Ctx) (i : Idx) : List Flag :=
  match rMaskMode c.it with
  | 1 => if (fetch s c .in2 i).2 then [.invalid] else []
  | 4 => if rHas c.it .in2 && i.i0 == 0 && (fetch s c .in2 i).2 then [.invalid] else []
  | _ => []

/-- Row number r of R204 to the index of its first element: (0, i1, i2, i3), or (i0, 0, i2, i3) of a column. -/
def rowIdx (r : Record) (n : Nat) : Idx :=
  if isCol r then ⟨n % rD0 r, 0, n / rD0 r % rD2 r, n / rD0 r / rD2 r⟩
  else ⟨0, n % rD1 r, n / rD1 r % rD2 r, n / rD1 r / rD2 r⟩

end Sys2Proof.Machine
end

