-- ==== Sys2Proof/Machine/Convert.lean ====
section
/-! DEFINITION. The input stage, the random mix, the output stage and the scales (R76, R77, R84-R99). -/

namespace Sys2Proof.Machine

/-! ### Input stage -/

/-- A value that the input stage gives a lane, with the flags it raised. -/
structure InVal where
  v : Word
  flags : List Flag
deriving DecidableEq, Repr

/-- R76 on one code of a floating-point format. -/
def decodeIn (f : Fmt) (code : Nat) : InVal :=
  ⟨round32 (f.value code), if f.isNanCode code then (if f.isSnanCode code then [.nanIn, .invalid] else [.nanIn]) else []⟩

/-- An element code after R76, with the replacement of Table 1-8 for one from a poisoned segment. -/
def decodeElem (f : Fmt) (x : Nat × Bool) : InVal :=
  if x.2 then (if f.noNan then ⟨0, [.invalid]⟩ else ⟨f32NaN, [.nanIn]⟩) else decodeIn f x.1

/-- The multiplication by a scale of R92. -/
def applyScale (x : InVal) (scale : XVal) : InVal :=
  if f32IsNan x.v then x
  else if scale.isNan then ⟨f32NaN, x.flags ++ [.nanIn]⟩
  else if (f32Val x.v).isInf && scale.isZero then ⟨f32NaN, x.flags ++ [.invalid]⟩
  else ⟨round32 ((f32Val x.v).mul scale), x.flags⟩

/-- The value of a block scale code (Table 5-4): E8M0, or E4M3 with its sign ignored. -/
def blockScaleVal (e4m3 : Bool) (code : Nat) : XVal :=
  if e4m3 then (Fmt.e4m3.value code).abs
  else if code == 255 then .nan else .scaled false 1 ((code : Int) - 127)

/-- The scale S of an input element (Table 5-4); a poisoned block code reads as NaN (Table 1-9). -/
def inputScale (s : State) (c : Ctx) (o : Opd) (i : Idx) : XVal :=
  let d := rDesc c.it o
  if dScale d == scVintage then .scaled false 1 c.vRead.toInt
  else
    let x := fetchBlock s c o i
    if x.2 then .nan else blockScaleVal (dScale d == scE4m3) x.1

/-- An entry of the pinned dequant tables (R93). -/
def dqEntry (s : State) (c : Ctx) (f : Fmt) (code : Nat) : Word :=
  let t := s.cellar
  match f with
  | .int4 => vAt (if c.bankDq4 then t.dq4B else t.dq4A) (BitVec.ofNat 4 code)
  | _ => vAt (if c.bankDq8 then t.dq8B else t.dq8A) (BitVec.ofNat 8 code)

/-- DQ_AFFINE on one element (R94): `area` holds a and z, read once for the operand, and a poisoned area reads a as NaN. An element
from a poisoned segment is a NaN (Table 1-8), and a signalling a raises its INVALID for it too. -/
def dqAffine (d : Desc) (area x : Nat × Bool) : InVal :=
  let a : InVal := if area.2 then ⟨f32NaN, [.nanIn]⟩ else decodeIn .fp32 (area.1 % 2 ^ 32)
  let q := signedOf (dFmt d).bits x.1 - signedOf 32 (area.1 / 2 ^ 32)
  if f32IsNan a.v then ⟨f32NaN, a.flags⟩
  else if x.2 then ⟨f32NaN, [.nanIn]⟩
  else if (f32Val a.v).isInf && q == 0 then ⟨f32NaN, a.flags ++ [.invalid]⟩
  else ⟨round32 ((f32Val a.v).mul (.ofInt q 1 false)), a.flags⟩

/-- The FP32 value of an element of a data input, after its scale, and the flags raised (R76, R92-R94). -/
def readInput (s : State) (c : Ctx) (o : Opd) (i : Idx) : InVal :=
  let d := rDesc c.it o
  let x := fetch s c o i
  if dScale d == scDqTable then
    if x.2 then ⟨f32NaN, [.nanIn]⟩ else decodeIn .fp32 (dqEntry s c (dFmt d) x.1).toNat
  else if dScale d == scDqAffine then dqAffine d (fetchArea s c o) x
  else if dScale d == scNone then decodeElem (dFmt d) x
  else applyScale (decodeElem (dFmt d) x) (inputScale s c o i)

/-! ### Random mix (R88) -/

/-- Rotation left of a 32-bit word. -/
def rotl (v : Word) (n : Nat) : Word := v.rotateLeft n

/-- The words and keys of the mix. -/
structure Mix where
  x0 : Word
  x1 : Word
  x2 : Word
  x3 : Word
  k0 : Word
  k1 : Word
deriving DecidableEq, Repr

/-- One round of R88. -/
def mixRound (m : Mix) : Mix :=
  let x0 := m.x0 + m.x1 + m.k0
  let x3 := rotl (m.x3 ^^^ x0) 16
  let x2 := m.x2 + x3 + m.k1
  let x1 := rotl (m.x1 ^^^ x2) 12
  let x0 := x0 + x1
  let x3 := rotl (x3 ^^^ x0) 8
  let x2 := x2 + x3
  let x1 := rotl (x1 ^^^ x2) 7
  ⟨x0, x1, x2, x3, m.k0 + 0x9E3779B9#32, m.k1 + 0x7F4A7C15#32⟩

/-- rnd16 = mix(seed, step, tag, e, sel) of R88. -/
def mix (seed : BitVec 64) (step : Word) (tag : BitVec 16) (e sel : Nat) : Nat :=
  let m : Mix :=
    { x0 := BitVec.ofNat 32 e, x1 := BitVec.ofNat 32 (e / 2 ^ 32 + tag.toNat * 2 ^ 8 + sel * 2 ^ 24), x2 := step,
      x3 := 0x6C8E9CF5#32, k0 := seed.extractLsb' 0 32, k1 := seed.extractLsb' 32 32 }
  let m := mixRound (mixRound (mixRound (mixRound (mixRound (mixRound m)))))
  ((m.x0 ^^^ m.x2) >>> 16).toNat

/-- The random value of a stored value or state point of an itinerary (R87, R89). -/
def rnd16 (r : Record) (i : Idx) (sel : Nat) : Nat := mix (rSeed r) (rStep r) (rTag r) (linIndex r i) sel

/-- The 16-bit random value under mode STOCH, none under RNE (Table 5-2). -/
def storeRnd (c : Ctx) (f : Fmt) (i : Idx) (sel : Nat) : Option Nat :=
  let stoch :=
    match f, rRounding c.it with
    | .fp32, _ => false
    | _, 1 => true
    | _, 2 => !c.bitmap.getLsbD (i.i0 % 4096)
    | _, _ => false
  if stoch then some (rnd16 c.it i sel) else none

/-! ### Output stage (R77) -/

/-- A stored code with its flags and counts. -/
structure Stored where
  code : Nat
  flags : List Flag
  nan : Bool
  ovf : Bool
deriving DecidableEq, Repr

/-- overflowed of R77. -/
def overflowed (f : Fmt) (sat : Bool) (x : XVal) : Stored :=
  let fl := [.overflow] ++ (if x.isFin && f != .fp32 then [.inexactNarrow] else [])
  if f.hasInf then ⟨f.infCode x.neg?, fl, false, true⟩
  else if f == .e4m3 && !sat then ⟨0x7F, fl, false, true⟩
  else ⟨f.withSign f.maxCode x.neg?, fl ++ [.sat], false, true⟩

/-- 2^-126. -/
def minNormal : XVal := .fin false 1 (2 ^ 126)

/-- store(x, fmt, sat) of R77; `stoch` carries the random value under STOCH. -/
def store (f : Fmt) (sat : Bool) (stoch : Option Nat) (x : XVal) : Stored :=
  match x with
  | .nan => if f.noNan then ⟨0, [.invalid], true, false⟩ else ⟨f.nanCode, [], true, false⟩
  | .inf s => if f.hasInf then ⟨f.infCode s, [], false, false⟩ else overflowed f sat x
  | .fin s _ _ =>
    let (r, ovf) := roundTo f stoch x
    if ovf then overflowed f sat x
    else
      let r := if f.isLong && !r.isZero && r.abs.lt minNormal then XVal.zero s else r
      let fl := (if r.isZero && !x.isZero then [Flag.underflow] else []) ++
                (if f != .fp32 && !r.eqv x then [Flag.inexactNarrow] else [])
      let r := if r.isZero && f.bits ≤ 16 then XVal.zero false else r
      ⟨encode f r, fl, false, false⟩

/-! ### Block scales (R97-R99) -/

/-- The smallest k with a ≤ m * 2^k, for a, m > 0 (R97, R107). -/
def leastExp (a m : XVal) : Int :=
  -- a / m as a fraction; ceil of its binary logarithm
  let n := a.num.natAbs * m.den
  let d := a.den * m.num.natAbs
  let k := floorLog2 n d
  if a.eqv (m.scale2 k) then k else k + 1

/-- The scale code and scale of an E8M0 block of amax a (R97). -/
def e8m0Scale (f : Fmt) (a : XVal) : Nat × XVal :=
  if a.isZero then (0x7F, .scaled false 1 0)
  else
    let k := max (-127) (min 127 (leastExp a f.max))
    ((k + 127).toNat, .scaled false 1 k)

/-- The first code from `code` up to 0x7E whose E4M3 value v has a ≤ max_elem * v (R98). -/
def e4m3Search (f : Fmt) (a : XVal) : Nat → Nat → Nat
  | 0, code => code
  | fuel + 1, code => if (f.max.mul (Fmt.e4m3.value code)).lt a then e4m3Search f a fuel (code + 1) else code

/-- The scale code and scale of an E4M3 block of amax a (R98). -/
def e4m3Scale (f : Fmt) (a : XVal) : Nat × XVal :=
  if a.isZero then (0x38, .scaled false 1 0)
  else
    let code := e4m3Search f a 125 1
    (code, Fmt.e4m3.value code)

/-- The scale code of a block, and its scale, from what is known of the block (R97-R99). -/
def blockScale (d : Desc) (b : BlockAcc) : Nat × XVal :=
  if b.nan then (if dScale d == scE4m3 then 0x7F else 0xFF, .nan)
  else if dScale d == scE4m3 then e4m3Scale (dFmt d) b.amax else e8m0Scale (dFmt d) b.amax

/-- An empty block. R97 and R98 take A over finite kept values; where a block keeps none, A stays 0, as R108's pre-pass has it (log 104). -/
def BlockAcc.empty : BlockAcc := ⟨.zero false, false⟩

/-- A kept element's y enters its block: finite values into the amax, a NaN marks the block (R97, R99). -/
def BlockAcc.add (b : BlockAcc) (y : XVal) : BlockAcc :=
  match y with
  | .nan => { b with nan := true }
  | .inf _ => b
  | .fin _ _ _ => if b.amax.lt y.abs then { b with amax := y.abs } else b

/-- Division of a presented value by a positive scale. -/
def unscale (y s : XVal) : XVal := y.divBy s.num.natAbs s.den

/-- The presented value x of an element under its output's scale (R95, R97-R99). `blk` is the scale of its block. -/
def presented (c : Ctx) (d : Desc) (blk : XVal) (y : XVal) : XVal :=
  if dScale d == scVintage then y.scale2 (-c.vOut.toInt)
  else if dIsBlock d then (if blk.isNan then .nan else unscale y blk)
  else y

/-- The scale an output element was stored under: 2^v or the block's S (R116). -/
def outputScale (c : Ctx) (d : Desc) (blk : XVal) : XVal :=
  if dScale d == scVintage then .scaled false 1 c.vOut.toInt
  else if dIsBlock d then blk else .scaled false 1 0

/-! ### Capture (R105, R106) -/

/-- A captured value: the largest finite magnitude so far, or none. -/
def captureMax (a : Option XVal) (y : XVal) : Option XVal :=
  if y.isFin then
    match a with
    | none => some y.abs
    | some m => if m.lt y.abs then some y.abs else a
  else a

/-- Both captures together. -/
def captureJoin (a b : Option XVal) : Option XVal :=
  match b with
  | none => a
  | some y => captureMax a y

/-- A of R106 as a BF16 code: rounded toward +inf onto the normal grid, clamped to 0x7F7F, a tiny non-zero value 0x0080. -/
def historyCode (a : XVal) : BitVec 16 :=
  if a.isZero then 0
  else if a.lt minNormal then 0x0080#16
  else
    let n := a.num.natAbs
    let d := a.den
    let q := floorLog2 n d - 7
    let (x, y) := scaledFrac n d q
    let up := XVal.scaled false ((x + y - 1) / y) q
    if Fmt.bf16.max.lt up then 0x7F7F#16 else BitVec.ofNat 16 (encode .bf16 up)

/-! ### State points (R91) -/

/-- A value that the main path rounds to FP32: round32, or the BF16 rounding of state point p under narrow_state. -/
def statePoint (r : Record) (i : Idx) (p : Nat) (x : XVal) : Word :=
  if rNarrow r then roundState (rnd16 r i (8 + p)) x else round32 x

end Sys2Proof.Machine
end

