-- ==== Sys2Proof/Machine/Ref.lean ====
section
/-! DEFINITION. The real functions that accuracy is measured against, in fixed point, and the bounds that every implementation meets
(R9, R120, R126, R129-R134, Tables 7-3 and 7-6). A reference is exact where its function is rational, and elsewhere right to far more bits
than a bound asks for and on the true side of what the function only approaches (log 39). -/

namespace Sys2Proof.Machine

/-! ### Fixed point -/

/-- 1 in units of 2^-512. -/
def fxOne : Nat := 2 ^ 512
/-- ln 2, √(2/π) and 1/√(2π), rounded down. -/
def fxLn2 : Nat :=
  0xb17217f7d1cf79abc9e3b39803f2f6af40f343267298b62d8a0d175b8baafa2be7b876206debac98559552fb4afa1b10ed2eae35c138214427573b291169b825
def fxSqrt2Pi : Nat :=
  0xcc42299ea1b284687e59e2805d5c717fa7053e60a24e0db1808e369004c73a5d3bf158aa88fa7b6e47eba75766e9d11bd6284ef2e17c2a264f1d32688be119ff
def fxRsqrt2Pi : Nat :=
  0x662114cf50d942343f2cf1402eae38bfd3829f30512706d8c0471b4802639d2e9df8ac55447d3db723f5d3abb374e88deb14277970be1513278e993445f08cff

/-- A finite value in units of 2^-512, exact for every FP32 value. -/
def fxOf (x : XVal) : Int := x.num * fxOne / x.den

/-- A fixed-point number as a value. -/
def fxVal (i : Int) : XVal := .ofInt i fxOne false

/-- A magnitude with the sign of x, which a magnitude of 0 keeps. -/
def fxSigned (x : XVal) (m : Nat) : XVal := .fin x.neg? m fxOne

/-- 1 + r/1 (1 + r/2 (1 + … r/n)): the series of e^r. -/
def expSeries (r : Nat) : Nat → Nat → Nat
  | 0, acc => acc
  | n + 1, acc => expSeries r n (fxOne + r * acc / fxOne / (n + 1))

/-- e^r for 0 ≤ r < 1. -/
def fxExpUnit (r : Nat) : Nat := expSeries r 128 fxOne

/-- e^x; beyond ±1,024 a value outside every format. -/
def fxExp (x : Int) : Nat :=
  if 1024 * (fxOne : Int) < x then fxOne * 2 ^ 1477
  else if x < -1024 * (fxOne : Int) then 0
  else
    let n := x / fxLn2
    let m := fxExpUnit (x - n * fxLn2).toNat
    if 0 ≤ n then m * 2 ^ n.toNat else m / 2 ^ (-n).toNat

/-- 1 + t (1/3 + t (1/5 + …)): the series of artanh, from its term k down. -/
def artanhSeries (t : Nat) : Nat → Nat → Nat
  | 0, acc => fxOne + t * acc / fxOne
  | n + 1, acc => artanhSeries t n (fxOne / (2 * n + 3) + t * acc / fxOne)

/-- The natural logarithm of n / d, both positive. -/
def fxLn (n d : Nat) : Int :=
  let e := floorLog2 n d
  let (a, b) := scaledFrac n d e
  let (b, e) := if 3 * b ≤ 2 * a then (2 * b, e + 1) else (b, e)
  let t : Int := ((a : Int) - b) * fxOne / ((a : Int) + b)
  e * fxLn2 + 2 * t * artanhSeries (t * t / fxOne).toNat 128 0 / fxOne

/-- e^x, at least one unit: what a function approaches but never reaches stays below its limit (R120). -/
def fxExpPos (x : Int) : Nat := max 1 (fxExp x)

/-- σ(x), below 1. -/
def fxSigmoid (x : Int) : Nat :=
  let e := fxExpPos (-(x.natAbs : Int))
  (if 0 ≤ x then fxOne else e) * fxOne / (fxOne + e)

/-- tanh of a magnitude, below 1. -/
def fxTanh (x : Nat) : Nat :=
  let t := fxExpPos (-2 * (x : Int))
  (fxOne - t) * fxOne / (fxOne + t)

/-- x (1 + x²/3 (1 + x²/5 (1 + …))), from its factor n down: the series of the normal integral. -/
def phiSeries (x2 : Nat) : Nat → Nat → Nat
  | 0, acc => acc
  | n + 1, acc => phiSeries x2 n (fxOne + x2 * acc / fxOne / (2 * n + 3))

/-- Φ(x), the normal distribution; beyond ±20 it is next below 1, or above 0 and still below every FP32 magnitude when multiplied by x. -/
def fxPhi (x : Int) : Nat :=
  let a := x.natAbs
  if 20 * fxOne < a then (if 0 ≤ x then fxOne - 1 else 1)
  else
    let x2 := a * a / fxOne
    let u := a * phiSeries x2 700 fxOne / fxOne * fxRsqrt2Pi / fxExp (x2 / 2 : Nat)
    if 0 ≤ x then fxOne / 2 + u else fxOne / 2 - u

/-- Newton's iteration for the integer square root, from above. -/
def sqrtIter (n : Nat) : Nat → Nat → Nat
  | 0, x => x
  | k + 1, x =>
    let y := (x + n / x) / 2
    if y < x then sqrtIter n k y else x

/-- The integer square root. -/
def natSqrt (m : Nat) : Nat := if m = 0 then 0 else sqrtIter m 64 (2 ^ (Nat.log2 m / 2 + 1))

/-- √(n / d), exactly where it is rational. -/
def refSqrt (n d : Nat) : XVal :=
  let s := natSqrt (n * d)
  if s * s = n * d then .fin false s d else .fin false (natSqrt (n * fxOne * fxOne / d)) fxOne

/-! ### Bounds (R120) -/

/-- rel 2^-k, m thousandths of an ulp, and abs 2^-k. -/
def relTol (k : Nat) (f : XVal) : XVal := f.abs.scale2 (-(k : Int))
def ulpTol (m : Nat) (f : XVal) : XVal := (XVal.scaled false m (floorLog2 f.num.natAbs f.den - 23)).divBy 1000 1
def absTol (k : Nat) : XVal := .scaled false 1 (-(k : Int))

/-- The bound of a grade. -/
def byGrade (g : Nat) (a b c : XVal) : XVal := if g ≤ 1 then a else if g = 2 then b else c

/-- Table 7-3's row of EXP2 and LOG2, which RCP shares; the seeds' row. -/
def coreTol (g : Nat) (f : XVal) : XVal := byGrade g (relTol 15 f) (ulpTol 1000 f) (ulpTol 502 f)
def seedTol (g : Nat) (f : XVal) : XVal := byGrade g (relTol 8 f) (relTol 15 f) (relTol 22 f)

/-- R120: a result r meets the bound `tol` against the reference f. -/
def fits (f tol : XVal) (r : Word) : Bool :=
  let x := f32Val r
  let off := (x.add f.negate).abs
  if x.isNan then false
  else if x.isInf then x.neg? == f.neg? && Fmt.fp32.max.lt (f.abs.add tol)
  else if f.abs.lt minNormal then x.neg? == f.neg? && !minNormal.lt off
  else !tol.lt off

/-- A result as an implementation that meets its bound gives it: the one its tables give where that meets the bound, and otherwise the
nearest FP32 value, which meets every bound. -/
def withinBound (f tol : XVal) (r : Word) : Word := if fits f tol r then r else round32 f

/-! ### References of the core (Table 7-3) -/

/-- 2^z of a finite z. -/
def refExp2 (z : XVal) : XVal :=
  let n := z.num / z.den
  .scaled false (fxExpUnit ((z.num - n * z.den).toNat * fxLn2 / z.den)) (n - 512)

/-- log2 x of a finite x > 0. -/
def refLog2 (x : XVal) : XVal := fxVal (fxLn x.num.natAbs x.den * fxOne / fxLn2)

/-- 1/x and 1/√x of a finite x that is not 0. -/
def refRcp (x : XVal) : XVal := .fin x.neg? x.den x.num.natAbs
def refRsqrt (x : XVal) : XVal := refSqrt x.den x.num.natAbs

/-! ### References and bounds of the built-in blends (Table 7-6) -/

/-- x times a factor, with the sign of x. -/
def refTimes (x : XVal) (m : Nat) : XVal := fxSigned x ((fxOf x).natAbs * m / fxOne)

/-- 2 √(2/π) (x + 0.044715 x³), of which GELU_TANH takes σ. -/
def geluArg (x : Int) : Int :=
  let c := x * x / fxOne * x / fxOne
  2 * (fxSqrt2Pi : Int) * (x + 44715 * c / 1000000) / fxOne

/-- ln (1 + e^x) of a magnitude or of what is below 0: above x and above 0. -/
def fxSoftplus (x : Int) : Int :=
  if 0 ≤ x then x + max 1 (fxLn (fxOne + fxExpPos (-x)) fxOne) else fxLn (fxOne + fxExp x) fxOne

/-- k tanh (x / k): below |x| and below k. Where x / k is small the first two terms of the series are exact to twice a bound's bits. -/
def refSoftcap (k x : XVal) : XVal :=
  let q := x.mul (refRcp k)
  if q.abs.lt (.scaled false 1 (-64)) then x.mul ((XVal.fin false 1 1).add ((q.mul q).divBy 3 1).negate)
  else (fxSigned x (fxTanh (fxOf q).natAbs)).mul k

/-- z of Table 7-6 for x^y. -/
def powExponent (x y : XVal) : XVal := y.mul (refLog2 x)

/-- x^y of a finite x > 0; beyond 2^±4096 a value outside every format. -/
def refPow (x y : XVal) : XVal :=
  let z := powExponent x y
  if (XVal.fin false 4096 1).lt z.abs then .scaled false 1 (if z.neg? then -4096 else 4096) else refExp2 z

/-- f of R120 for a built-in slot whose image is not exact: x is in0, y is in1, k is |K|. -/
def refBuiltin (slot : Nat) (k x y : XVal) : XVal :=
  let i := fxOf x
  match slot with
  | 11 => fxVal (fxLn x.num.natAbs x.den)
  | 13 => fxVal (fxExpPos i - fxOne)
  | 14 => fxVal (fxLn (x.num + x.den).toNat x.den)
  | 15 => fxSigned (.zero false) (fxSigmoid i)
  | 16 => fxSigned x (fxTanh i.natAbs)
  | 17 => refTimes x (fxSigmoid i)
  | 18 => refTimes x (fxSigmoid (geluArg i))
  | 19 => refTimes x (fxPhi i)
  | 20 => fxVal (fxSoftplus i)
  | 21 => refRcp x
  | 22 => refRsqrt x
  | 23 => refSqrt x.num.natAbs x.den
  | 24 => x.mul (refRcp y)
  | 25 => refPow x y
  | 26 => refSoftcap k x
  | 27 => refTimes x (fxSigmoid (851 * i / 500))
  | _ => x

/-- The bound of Table 7-6 for such a slot against f. -/
def builtinTol (slot g : Nat) (k x y f : XVal) : XVal :=
  let ulps (a b c : Nat) := byGrade g (relTol a f) (ulpTol (1000 * b) f) (ulpTol (1000 * c) f)
  let wide (a : Nat) := byGrade g (relTol a f) (relTol 16 f) (relTol 16 f)
  let small := !(XVal.fin false 1 1).lt x.abs
  match slot with
  | 13 | 14 => ulps 12 8 3
  | 16 => if x.abs.lt (.fin false 11 20) then byGrade g (absTol 15) (absTol 22) (absTol 23) else ulps 14 4 2
  | 17 => ulps 14 4 3
  | 18 | 27 => if small then ulps 13 6 4 else wide 13
  | 19 => if small then ulps 12 6 4 else wide 12
  | 20 => ulps 13 4 3
  | 21 => coreTol g f
  | 22 | 23 | 24 => byGrade g (relTol 14 f) (ulpTol 1000 f) (ulpTol 502 f)
  | 25 => (byGrade g (relTol 14 f) (relTol 22 f) (relTol 23 f)).mul ((XVal.fin false 1 1).add (powExponent x y).abs)
  | 26 =>
    if x.abs.lt (k.mul (.fin false 11 20)) then (byGrade g (absTol 14) (absTol 21) (absTol 22)).mul k else ulps 13 6 4
  | _ => ulps 14 3 2

end Sys2Proof.Machine
end

