-- ==== Sys2Proof/Machine/CoreFn.lean ====
section
/-! DEFINITION. The function core: EXP2, LOG2, RCPS, RSQS, and the row-term parts of the soft maximum (R122-R127, R161). A result rests
on free coefficients, and one that misses the bound of Table 7-3 gives way to the nearest FP32 value (R9, log 39). -/

namespace Sys2Proof.Machine

/-! ### Core tables, with the fixed entries of Table 7-1 -/

def exT (j : Nat) : Int := if j = 0 then 2 ^ 42 else (Config.exT j).toNat
def exC (g : Nat) : List Int := (2 ^ 42 : Int) :: (List.range g).map fun k => (Config.exC g (k + 1)).toInt
/-- LG_T, stored at j + 16. -/
def lgT (k : Nat) : Int × Int := if k = 16 then (2 ^ 42, 0) else ((Config.lgTc k).toNat, (Config.lgTl k).toInt)
def lgC (g : Nat) : List Int := (List.range (g + 2)).map fun k => (Config.lgC g k).toInt
def rcT (j : Nat) : Int := (Config.rcT j).toNat
def rcC (g : Nat) : List Int := (List.range g).map fun k => (Config.rcC g k).toInt
def rsT (j : Nat) : Int × Int := ((Config.rsTc j).toNat, (Config.rsTw j).toNat)
def rsC (g : Nat) : List Int := (List.range g).map fun k => (Config.rsC g k).toInt

/-- horner of R123; `>>` is floor division by a power of two. -/
def horner : List Int → Int → Int
  | [], _ => 0
  | [c], _ => c
  | c :: t, u => c + horner t u * u / 2 ^ 42

/-- L2E of R123. -/
def l2e : Int := 0x5C551D94AE0BF85E

/-- EXP2 on an exact product z with finite operands (exp2_core of R123), within its bound: against e^a for source 15, else 2^z. -/
def exp2Fin (z : XVal) (a : Option XVal) (g : Nat) : Word :=
  let zi := roundEvenInt (z.num * 2 ^ 42) z.den
  if 128 * 2 ^ 42 ≤ zi then f32Inf false
  else if zi < -127 * 2 ^ 42 then f32Zero false
  else
    let n := zi / 2 ^ 42
    let f := zi - n * 2 ^ 42
    let j := f / 2 ^ 35
    let u := f - j * 2 ^ 35
    let m := exT j.toNat * horner (exC g) u / 2 ^ 42
    let y := match a with | some x => fxVal (fxExp (fxOf x)) | none => refExp2 z
    withinBound y (coreTol g y) (round32 (.ofScaled m (n - 42)))

/-- EXP2 of R123 with the special operands of Table 7-4; source 15 stands for log2 e held to 64 bits. -/
def exp2Op (a b : Word) (srcB15 : Bool) (g : Nat) : Word × List Flag :=
  let x := f32Val a
  let y := if srcB15 then XVal.ofInt l2e (2 ^ 62) false else f32Val b
  if x.isNan || y.isNan then (f32NaN, [])
  else
    match x.mul y with
    | .nan => (f32NaN, [.invalid])
    | .inf false => (f32Inf false, [])
    | .inf true => (f32Zero false, [])
    | z => (exp2Fin z (if srcB15 then some x else none) g, [])

/-- log2_core of R124 on a finite positive value, within its bound. -/
def log2Fin (x : XVal) (g : Nat) : Word :=
  let e := floorLog2 x.num.natAbs x.den
  let (a, b) := scaledFrac x.num.natAbs x.den (e - 42)
  let m : Int := (a / b : Nat)
  let (m, e) := if (3 * 2 ^ 41 : Int) ≤ m then (m / 2, e + 1) else (m, e)
  let j := (m - 2 ^ 42 + 2 ^ 35) / 2 ^ 36
  let (c, l) := lgT (j + 16).toNat
  let u := m * c / 2 ^ 42 - 2 ^ 42
  let q := horner (lgC g) u
  let v := (e * 2 ^ 42 + l) * 2 ^ 42 + u * q
  withinBound (refLog2 x) (coreTol g (refLog2 x)) (round32 (.ofScaled v (-84)))

/-- LOG2 with the special operands of Table 7-4. -/
def log2Op (a : Word) (g : Nat) : Word × List Flag :=
  let x := f32Val a
  if x.isNan then (f32NaN, [])
  else if x.isZero then (f32Inf true, [.divzero])
  else if x.neg? then (f32NaN, [.invalid])
  else if x.isInf then (f32Inf false, [])
  else (log2Fin x g, [])

/-- RCPS with the special operands of Table 7-4 (rcps_core of R125). -/
def rcpsOp (a : Word) (g : Nat) : Word × List Flag :=
  let x := f32Val a
  if x.isNan then (f32NaN, [])
  else if x.isZero then (f32Inf x.neg?, [.divzero])
  else if x.isInf then (f32Zero x.neg?, [])
  else
    let e := floorLog2 x.num.natAbs x.den
    let (p, q) := scaledFrac x.num.natAbs x.den (e - 42)
    let m : Int := (p / q : Nat)
    let j := (m - 2 ^ 42) / 2 ^ 35
    let c := rcT j.toNat
    let u := m * c / 2 ^ 42 - 2 ^ 42
    let s := horner (rcC g) u
    let r := XVal.ofScaled (c * s / 2 ^ 42) (-42 - e)
    (withinBound (refRcp x) (seedTol g (refRcp x)) (round32 (if x.neg? then r.abs.negate else r.abs)), [])

/-- RSQS with the special operands of Table 7-4 (rsqs_core of R125). -/
def rsqsOp (a : Word) (g : Nat) : Word × List Flag :=
  let x := f32Val a
  if x.isNan then (f32NaN, [])
  else if x.isZero then (f32Inf x.neg?, [.divzero])
  else if x.neg? then (f32NaN, [.invalid])
  else if x.isInf then (f32Zero false, [])
  else
    let h := floorLog2 x.num.natAbs x.den / 2
    let (p, q) := scaledFrac x.num.natAbs x.den (2 * h - 42)
    let m : Int := (p / q : Nat)
    let j := if m < 2 ^ 43 then (m - 2 ^ 42) / 2 ^ 36 else 64 + (m - 2 ^ 43) / 2 ^ 37
    let (c, w) := rsT j.toNat
    let u := m * c / 2 ^ 42 - 2 ^ 42
    let s := horner (rsC g) u
    (withinBound (refRsqrt x) (seedTol g (refRsqrt x)) (round32 (.ofScaled (w * s / 2 ^ 42) (-42 - h))), [])

/-- RCPE (R58): the exact reciprocal to 10 significant bits. -/
def rcpeOp (a : Word) : Word :=
  match f32Val a with
  | .nan => f32NaN
  | .inf s => f32Zero s
  | .fin s n d =>
    if n == 0 then f32Inf s
    else
      let q := floorLog2 d n - 9
      let (x, y) := scaledFrac d n q
      round32 (.scaled s (roundEven x y) q)

/-- Z, n and m24 of a finite u at grade g (R161). -/
structure TermParts where
  z : Int
  n : Int
  m24 : Int
deriving DecidableEq, Repr

/-- A 24-bit significand m of 2^v, 0 ≤ v < 1, within EXP2's bound against that value (R134, R171). -/
def admitTerm (g : Nat) (v : XVal) (m : Int) : Int :=
  let f := refExp2 v
  if (coreTol g f).lt ((XVal.ofScaled m (-23)).add f.negate).abs then roundEvenInt (f.num * 2 ^ 23) f.den else m

/-- term_parts of R161. -/
def termParts (u : Word) (g : Nat) : TermParts :=
  let x := f32Val u
  let z := roundEvenInt (x.num * l2e) (x.den * 2 ^ 20)
  let n := z / 2 ^ 42
  let f := z - n * 2 ^ 42
  let j := f / 2 ^ 35
  let v := f - j * 2 ^ 35
  let p := horner (exC g) v
  ⟨z, n, admitTerm g (.ofScaled f (-42)) (roundEvenInt (exT j.toNat * p / 2 ^ 42) (2 ^ 19))⟩

end Sys2Proof.Machine
end

