-- ==== Sys2Proof/Machine/Blend.lean ====
section
/-! DEFINITION. Blend images, the lane's instructions, the built-in library and the rates (R52-R66, R128-R133). -/

namespace Sys2Proof.Machine

/-! ### Images -/

/-- Kind, inputs and outputs of the built-in slots (Table 3-8), as the header bits [10:5] of Table 3-4. -/
def builtinSig (slot : Nat) : Nat :=
  -- nin + nout * 4 + kind * 16
  match slot with
  | 0 | 1 | 2 => 1 + 4 + 48
  | 3 | 4 | 6 | 24 | 25 => 2 + 4
  | 5 => 3 + 4
  | 28 | 29 | 30 | 31 => 1 + 4 + 32
  | _ => 1 + 4 + 16

/-- An instruction word that is always executed (R57). -/
def instrWord (op dst a b c : Nat) (na aa : Bool) : Word :=
  BitVec.ofNat 32 (op * 2 ^ 26 + dst * 2 ^ 23 + a * 2 ^ 19 + b * 2 ^ 15 + c * 2 ^ 11 + (if na then 2 ^ 10 else 0) + (if aa then 2 ^ 8 else 0))

/-- The instructions of the built-in blends whose function is one operation or two: those of R66 for IDENT, NEG and IDENT_T, and the model's
own for the others, with the counts of Table 3-8 (log 16). Sources 12 to 15 are K, 1.0, +0 and log2 e (Table 3-2). -/
def fixedInstrs (slot : Nat) : List Word :=
  match slot with
  | 0 | 31 => [instrWord 0x20 6 0 0 0 false false]
  | 1 => [instrWord 0x11 6 12 0 0 false false]
  | 2 => [instrWord 0x20 6 0 0 0 true false]
  | 3 => [instrWord 0x12 6 0 0 1 false false]
  | 4 => [instrWord 0x11 6 0 1 0 false false]
  | 5 => [instrWord 0x10 6 0 1 2 false false]
  | 6 => [instrWord 0x10 6 12 0 1 false false]
  | 7 => [instrWord 0x22 6 0 14 0 false false]
  | 8 => [instrWord 0x22 5 0 14 0 false false, instrWord 0x11 6 5 5 0 false false]
  | 9 | 30 => [instrWord 0x01 6 0 15 0 false false]
  | 10 => [instrWord 0x01 6 0 13 0 false false]
  | 12 => [instrWord 0x02 6 0 0 0 false false]
  | 28 => [instrWord 0x11 6 0 0 0 false false]
  | 29 => [instrWord 0x20 6 0 0 0 false true]
  | _ => []

/-- The instruction count of a built-in image; that of an image left to the coefficient ROM is open. -/
def builtinCount (slot : Nat) : Nat :=
  if (fixedInstrs slot).isEmpty then 1 + (Config.builtinWord slot 0).toNat % 24 else (fixedInstrs slot).length

/-- Word w of a built-in image (R56, R60): the header, the constants of the coefficient ROM, and the instructions, from the ROM where they
are not given. -/
def builtinImage (slot w : Nat) : Word :=
  if w = 0 then BitVec.ofNat 32 (builtinCount slot + builtinSig slot * 32)
  else if w < 5 then Config.builtinWord slot w
  else if w < 5 + builtinCount slot then (fixedInstrs slot)[w - 5]?.getD (Config.builtinWord slot w)
  else 0

/-- Word w of a slot of the BLEND table in bank A (false) or B. -/
def blendWord (t : Cellar) (bank : Bool) (slot w : Nat) : Word :=
  if slot < 32 then builtinImage slot w
  else vAt (if bank then t.blendB else t.blendA) (BitVec.ofNat 10 ((slot - 32) * 32 + w))

/-- The 32 words of a slot. -/
def blendImage (t : Cellar) (bank : Bool) (slot : Nat) : List Word := (List.range 32).map (blendWord t bank slot)

/-- A slot whose 32 words are all zero is empty (R61). -/
def blendEmpty (t : Cellar) (bank : Bool) (slot : Nat) : Bool := (blendImage t bank slot).all (· == 0)

/-- Header fields (Table 3-4). -/
def bhCount (h : Word) : Nat := (bitsOf h 0 5).toNat
def bhNin (h : Word) : Nat := (bitsOf h 5 2).toNat
def bhNout (h : Word) : Nat := (bitsOf h 7 2).toNat
def bhKind (h : Word) : Nat := (bitsOf h 9 2).toNat

/-- Instruction fields (R57). -/
def biOp (w : Word) : Nat := (bitsOf w 26 6).toNat
def biDst (w : Word) : BitVec 3 := w.extractLsb' 23 3
def biA (w : Word) : Nat := (bitsOf w 19 4).toNat
def biB (w : Word) : Nat := (bitsOf w 15 4).toNat
def biC (w : Word) : Nat := (bitsOf w 11 4).toNat
def biNa (w : Word) : Bool := w.getLsbD 10
def biNc (w : Word) : Bool := w.getLsbD 9
def biAa (w : Word) : Bool := w.getLsbD 8
def biGmin (w : Word) : Nat := (bitsOf w 6 2).toNat
def biImm (w : Word) : Nat := (bitsOf w 0 6).toNat

/-- Slot class of an operation (Table 3-5): 0 core, 1 arithmetic, 2 logic; none for a reserved code. -/
def opSlot (op : Nat) : Option Nat :=
  if 1 ≤ op && op ≤ 4 then some 0
  else if 0x10 ≤ op && op ≤ 0x14 then some 1
  else if 0x20 ≤ op && op ≤ 0x2A then some 2
  else none

/-- Which of b and c an operation reads (Table 3-5). -/
def opReadsB (op : Nat) : Bool := [0x01, 0x10, 0x11, 0x13, 0x21, 0x22, 0x23, 0x24, 0x26, 0x28, 0x29, 0x2A].contains op
def opReadsC (op : Nat) : Bool := [0x10, 0x12, 0x24].contains op

/-- Which modifiers an operation allows (Table 3-5). -/
def opModA (op : Nat) : Bool :=
  [0x01, 0x02, 0x03, 0x04, 0x10, 0x11, 0x12, 0x13, 0x14, 0x20, 0x21, 0x22, 0x23, 0x27].contains op
def opModC (op : Nat) : Bool := [0x10, 0x12, 0x24].contains op

/-- The largest imm an operation defines (R58). -/
def opImmMax (op : Nat) : Nat := if op = 0x14 then 3 else if op = 0x23 then 6 else if op = 0x25 then 63 else 0

/-- An instruction word is legal (R58, R61). -/
def instrOk (w : Word) : Bool :=
  let op := biOp w
  (opSlot op).isSome && (opReadsB op || biB w == 0) && (opReadsC op || biC w == 0) &&
  (opModA op || (!biNa w && !biAa w)) && (opModC op || !biNc w) && decide (biImm w ≤ opImmMax op)

/-- The instructions executed at a grade (R59). -/
def executed (img : List Word) (g : Nat) : List Word :=
  ((img.drop 5).take (min 24 (bhCount (img.headD 0)))).filter fun w => biGmin w ≤ 1 || biGmin w ≤ g

/-- How many instructions of a slot class are executed at a grade. -/
def slotCount (img : List Word) (g cls : Nat) : Nat := ((executed img g).filter fun w => opSlot (biOp w) == some cls).length

/-- A CONV image holds a core operation, more than 2 arithmetic or more than 1 logic operation up to word w (R61); at grade 3
every instruction is executed. -/
def convOver (img : List Word) (w : Nat) : Bool :=
  let pre := (img.take (w + 1)).drop 5
  let n (cls : Nat) := (pre.filter fun x => opSlot (biOp x) == some cls).length
  n 0 != 0 || decide (2 < n 1) || decide (1 < n 2)

/-- The lowest failing word of a staged user image, or none (R61). The budget of a CONV image fails at the instruction that
exceeds it (log 24). -/
def imageFault (img : List Word) : Option Nat :=
  let h := img.headD 0
  let n := bhCount h
  if img.all (· == 0) then none
  else
    let hdrBad := h >>> 11 != 0 || n == 0 || decide (24 < n) || bhNin h == 0 || bhNout h == 0 || bhNout h == 3 ||
      (bhKind h != 0 && (bhNin h != 1 || bhNout h != 1))
    if hdrBad then some 0
    else
      (List.range 32).find? fun w =>
        let x := img.getD w 0
        decide (5 ≤ w) && (if w < 5 + n then !instrOk x || (bhKind h == 3 && convOver img w) else x != 0)

/-! ### Lane execution -/

/-- The sources of a blend besides the registers. -/
structure LaneEnv where
  consts : List Word
  k : Word
  grade : Nat
deriving DecidableEq, Repr

/-- Lane registers and the flags raised so far. -/
structure Lane where
  v : Vector Word (2 ^ 3)
  flags : List Flag
deriving DecidableEq, Repr

/-- Source codes of Table 3-2. -/
def laneSrc (env : LaneEnv) (l : Lane) (code : Nat) : Word :=
  if code < 8 then vAt l.v (BitVec.ofNat 3 code)
  else if code < 12 then env.consts.getD (code - 8) 0
  else if code = 12 then env.k
  else if code = 13 then f32One
  else if code = 14 then 0
  else 0x3FB8AA3B#32

/-- Negation and absolute value of a code as read (R57); a NaN stays NaN. -/
def f32Neg (c : Word) : Word := if f32IsNan c then f32NaN else c ^^^ 0x80000000#32
def f32Abs (c : Word) : Word := if f32IsNan c then f32NaN else c &&& 0x7FFFFFFF#32

/-- a' of R57 from a code as read under R55. -/
def modA (w : Word) (a : Word) : Word :=
  let a := f32Canon a
  let a := if biAa w then f32Abs a else a
  if biNa w then f32Neg a else a

/-- INVALID when a NaN comes from operands none of which is NaN (R59). -/
def nanFlag (r : XVal) (ops : List XVal) : List Flag := if r.isNan && ops.all (!·.isNan) then [.invalid] else []

/-- MUL, ADD and FMA of R55 and R59. -/
def laneMul (a b : Word) : Word × List Flag :=
  let r := (f32Val a).mul (f32Val b)
  (round32 r, nanFlag r [f32Val a, f32Val b])
def laneAdd (a c : Word) : Word × List Flag :=
  let r := (f32Val a).add (f32Val c)
  (round32 r, nanFlag r [f32Val a, f32Val c])
def laneFma (a b c : Word) : Word × List Flag :=
  let r := ((f32Val a).mul (f32Val b)).add (f32Val c)
  (round32 r, nanFlag r [f32Val a, f32Val b, f32Val c])

/-- The truncated and clamped exponent of LDEXP. -/
def ldexpM (b : XVal) : Int :=
  match b with
  | .inf s => if s then -512 else 512
  | .fin s n d => max (-512) (min 512 (if s then -((n / d : Nat) : Int) else ((n / d : Nat) : Int)))
  | .nan => 0

/-- RINT with the modes of its imm. -/
def rintOp (a : Word) (mode : Nat) : Word :=
  match f32Val a with
  | .fin s n d =>
    let fl := n / d
    let exact := n % d == 0
    let m := match mode with
      | 0 => roundEven n d
      | 1 => if s && !exact then fl + 1 else fl
      | 2 => if !s && !exact then fl + 1 else fl
      | _ => fl
    round32 (.fin s m 1)
  | x => round32 x

/-- MIN and MAX under the order of R81. -/
def minOp (a b : Word) : Word :=
  if f32IsNan a || f32IsNan b then f32NaN else if (f32Val b).below (f32Val a) then f32Canon b else f32Canon a
def maxOp (a b : Word) : Word :=
  if f32IsNan a || f32IsNan b then f32NaN else if (f32Val a).below (f32Val b) then f32Canon b else f32Canon a

/-- The relations of CMP. -/
def cmpOp (a b : Word) (rel : Nat) : Bool :=
  let x := f32Val a
  let y := f32Val b
  let un := x.isNan || y.isNan
  match rel with
  | 0 => x.eqv y
  | 1 => x.lt y
  | 2 => x.lt y || x.eqv y
  | 3 => y.lt x
  | 4 => y.lt x || x.eqv y
  | 5 => un || !x.eqv y
  | _ => un

/-- The class number of CLASS. -/
def classOf (a : Word) : Nat :=
  match f32Val a with
  | .nan => 0
  | .inf s => if s then 1 else 5
  | .fin s n _ => if n == 0 then 3 else if s then 2 else 4

/-- One instruction's result and flags (Table 3-5). -/
def laneOp (env : LaneEnv) (l : Lane) (w : Word) : Word × List Flag :=
  let ra := laneSrc env l (biA w)
  let rb := laneSrc env l (biB w)
  let rc := laneSrc env l (biC w)
  let a := modA w ra
  let b := f32Canon rb
  let c := if biNc w then f32Neg (f32Canon rc) else f32Canon rc
  match biOp w with
  | 0x01 => exp2Op a b (biB w == 15) env.grade
  | 0x02 => log2Op a env.grade
  | 0x03 => rcpsOp a env.grade
  | 0x04 => rsqsOp a env.grade
  | 0x10 => laneFma a b c
  | 0x11 => laneMul a b
  | 0x12 => laneAdd a c
  | 0x13 => if f32IsNan b then (f32NaN, []) else (round32 ((f32Val a).scale2 (ldexpM (f32Val b))), [])
  | 0x14 => (rintOp a (biImm w), [])
  | 0x20 => (a, [])
  | 0x21 => (minOp a b, [])
  | 0x22 => (maxOp a b, [])
  | 0x23 => (if cmpOp a b (biImm w) then f32One else 0, [])
  | 0x24 => (if (f32Val a).isZero then c else b, [])
  | 0x25 => (if biImm w / 2 ^ classOf a % 2 == 1 then f32One else 0, [])
  | 0x26 => (if f32IsNan a then f32NaN else (f32Abs a ||| (if f32IsNan b then 0 else b &&& 0x80000000#32)), [])
  | 0x27 => (rcpeOp a, [])
  | 0x28 => (ra &&& rb, [])
  | 0x29 => (ra ||| rb, [])
  | 0x2A => (ra ^^^ rb, [])
  | _ => (0, [])

/-- One instruction executed. -/
def laneStep (env : LaneEnv) (l : Lane) (w : Word) : Lane :=
  let r := laneOp env l w
  { v := vPut l.v (biDst w) r.1, flags := l.flags ++ r.2 }

/-- A blend run on its inputs (R54): v6, v7 and the flags raised. -/
def runImage (img : List Word) (g : Nat) (k v0 v1 v2 : Word) : Word × Word × List Flag :=
  let nin := bhNin (img.headD 0)
  let regs := vPut (vAll 3 0) 0#3 v0
  let regs := if 2 ≤ nin then vPut regs 1#3 v1 else regs
  let regs := if 3 ≤ nin then vPut regs 2#3 v2 else regs
  let l := (executed img g).foldl (laneStep ⟨(img.drop 1).take 4, k, g⟩) { v := regs, flags := [] }
  (vAt l.v 6#3, vAt l.v 7#3, l.flags)

/-! ### The built-in library (R128-R133) -/

/-- A special result of Tables 7-7 to 7-9; none where the image decides. -/
abbrev Special := Option (Word × List Flag)

/-- −1.0 and 0.5. -/
def f32MinusOne : Word := 0xBF800000#32
def f32Half : Word := 0x3F000000#32

/-- The rows of Table 7-7, by built-in slot, for an input that is not NaN. -/
def specialOne (slot : Nat) (x : XVal) : Special :=
  let isOne := x.eqv (.fin false 1 1)
  let isMOne := x.eqv (.fin true 1 1)
  let bad : Special := some (f32NaN, [.invalid])
  match slot with
  | 9 | 10 | 30 => match x with
    | .inf s => some (if s then 0 else f32Inf false, [])
    | _ => if x.isZero then some (f32One, []) else none
  | 12 => if x.isZero then some (f32Inf true, [.divzero]) else if x.neg? then bad else
    if x.isInf then some (f32Inf false, []) else none
  | 11 => if x.isZero then some (f32Inf true, [.divzero]) else if x.neg? then bad else
    if x.isInf then some (f32Inf false, []) else if isOne then some (0, []) else none
  | 13 => match x with
    | .inf s => some (if s then f32MinusOne else f32Inf false, [])
    | _ => if x.isZero then some (f32Zero x.neg?, []) else none
  | 14 => if x.isZero then some (f32Zero x.neg?, []) else if isMOne then some (f32Inf true, [.divzero])
    else if x.lt (.fin true 1 1) then bad else if x.isInf then some (f32Inf false, []) else none
  | 15 => match x with
    | .inf s => some (if s then 0 else f32One, [])
    | _ => if x.isZero then some (f32Half, []) else none
  | 16 => match x with
    | .inf s => some (if s then f32MinusOne else f32One, [])
    | _ => if x.isZero then some (f32Zero x.neg?, []) else none
  | 17 | 18 | 19 | 27 => match x with
    | .inf s => if s then bad else some (f32Inf false, [])
    | _ => if x.isZero then some (f32Zero x.neg?, []) else none
  | 20 => match x with
    | .inf s => some (if s then 0 else f32Inf false, [])
    | _ => none
  | 21 => match x with
    | .inf s => some (f32Zero s, [])
    | _ => if x.isZero then some (f32Inf x.neg?, [.divzero]) else none
  | 22 => if x.isZero then some (f32Inf x.neg?, [.divzero]) else if x.neg? then bad
    else if x.isInf then some (0, []) else none
  | 23 => if x.isZero then some (f32Zero x.neg?, []) else if x.neg? then bad
    else if x.isInf then some (f32Inf false, []) else none
  | _ => none

/-- SOFTCAP (R133, Table 7-7); K not finite and non-zero raises INVALID, a NaN K nothing. -/
def specialSoftcap (k x : XVal) : Special :=
  if k.isNan then some (f32NaN, [])
  else if k.isZero || k.isInf then some (f32NaN, [.invalid])
  else if x.isNan then some (f32NaN, [])
  else match x with
    | .inf s => some (round32 (if s then k.abs.negate else k.abs), [])
    | _ => if x.isZero then some (f32Zero x.neg?, []) else none

/-- DIV (R131, Table 7-8). -/
def specialDiv (x y : XVal) : Special :=
  let s := x.neg? != y.neg?
  if y.isNan then some (f32NaN, [])
  else if y.isZero then
    (if x.isNan then some (f32NaN, [.divzero])
     else if x.isZero then some (f32NaN, [.invalid, .divzero])
     else some (f32Inf s, [.divzero]))
  else if x.isNan then some (f32NaN, [])
  else if y.isInf then (if x.isInf then some (f32NaN, [.invalid]) else some (f32Zero s, []))
  else if !y.abs.lt (.fin false (2 ^ 126) 1) then (if x.isInf then some (f32NaN, [.invalid]) else some (f32Zero s, []))
  else if x.isInf then some (f32Inf s, [])
  else if x.isZero then some (f32Zero s, [])
  else none

/-- POW of R132: the flags of LOG2 of x and of EXP2 of in1 times it; the value 1.0 where in1 is ±0. -/
def powOp (x y : Word) (g : Nat) : Word × List Flag :=
  let l := log2Op x g
  let e := exp2Op y l.1 false g
  (if (f32Val y).isZero then f32One else e.1, l.2 ++ e.2)

/-- POW on the operands of Table 7-9 for which it gives no "b". -/
def specialPow (x y : Word) (g : Nat) : Special :=
  let v := f32Val x
  if (XVal.zero false).lt v && v.isFin && !v.eqv (.fin false 1 1) && (f32Val y).isFin && !(f32Val y).isZero then none else some (powOp x y g)

/-- What the rules fix of a built-in blend on its inputs: its result with its flags, or the exact value f whose bound the result meets
without a flag (R129, R130). -/
inductive Due where
  | result (r : Word × List Flag)
  | bound (f tol : XVal)
deriving DecidableEq, Repr

/-- A result keeps the rules; a special input raises each flag of its table exactly once (log 100). -/
def Due.keeps (d : Due) (r : Word × List Flag) : Bool :=
  match d with
  | .result x => r == x
  | .bound f tol => r.2 == [] && fits f tol r.1

/-- A result that keeps them: of a bound, the FP32 value nearest to f. -/
def Due.value (d : Due) : Word × List Flag :=
  match d with
  | .result x => x
  | .bound f _ => (round32 f, [])

/-- What R129 to R133 ask of a built-in slot whose image the coefficient ROM gives; SOFTCAP reads |K| (R133). -/
def builtinDue (slot g : Nat) (k v0 v1 : Word) : Due :=
  let a := f32Canon v0
  let b := f32Canon v1
  let k' := f32Val (if slot = 26 then f32Abs k else k)
  let f := refBuiltin slot k' (f32Val a) (f32Val b)
  let special := match slot with
    | 24 => specialDiv (f32Val a) (f32Val b)
    | 25 => specialPow a b g
    | 26 => specialSoftcap (f32Val k) (f32Val a)
    | _ => if f32IsNan a then some (f32NaN, []) else specialOne slot (f32Val a)
  match special with
  | some r => .result r
  | none => .bound f (builtinTol slot g k' (f32Val a) (f32Val b) f)

/-- The 32 words of a built-in slot, as page 5 reads them back. -/
def builtinWords (slot : Nat) : List Word := (List.range 32).map (builtinImage slot)

/-- The run of a built-in image: v6 and the flags. -/
def imageRun (slot g : Nat) (k v0 v1 v2 : Word) : Word × List Flag :=
  let r := runImage (builtinWords slot) g k v0 v1 v2
  (r.1, r.2.2)

/-- The words of a slot keep the rules on some inputs: their result does, and that of SOFTCAP is even in the sign of K (R133). -/
def imageKeeps (slot g : Nat) (k v0 v1 v2 : Word) : Bool :=
  (builtinDue slot g k v0 v1).keeps (imageRun slot g k v0 v1 v2) &&
  (slot != 26 || imageRun slot g (k ^^^ 0x80000000#32) v0 v1 v2 == imageRun slot g k v0 v1 v2)

/-- A built-in blend on its inputs: its image runs (R66). R9 leaves the words of most slots open; the words of an implementation keep the
rules on every input, and where the opaque ones do not, what the rules ask stands (logs 16 and 17). -/
def runBuiltin (slot g : Nat) (k v0 v1 v2 : Word) : Word × List Flag :=
  if !(fixedInstrs slot).isEmpty || imageKeeps slot g k v0 v1 v2 then imageRun slot g k v0 v1 v2 else (builtinDue slot g k v0 v1).value

/-- A blend of the pinned BLEND bank run on an element: v6, v7 and the flags. -/
def runBlend (s : State) (c : Ctx) (g : Nat) (v0 v1 v2 : Word) : Word × Word × List Flag :=
  let slot := rBlend c.it
  if slot < 32 then
    let r := runBuiltin slot g (rParam c.it) v0 v1 v2
    (r.1, 0, r.2)
  else runImage (blendImage s.cellar c.bankBlend slot) g (rParam c.it) v0 v1 v2

/-! ### Rate -/

/-- Beats per element and lane of a blend, from the instructions of its image that are executed (R62, R66). -/
def blendRate (s : State) (c : Ctx) : Nat :=
  let g := rGrade c.it
  let img := blendImage s.cellar c.bankBlend (rBlend c.it)
  max (max 1 (slotCount img g 0 * g)) (max (cdiv (slotCount img g 1) 4) (cdiv (slotCount img g 2) 2))

/-- The kind of the blend an itinerary names. -/
def blendKind (s : State) (c : Ctx) : Nat := bhKind (blendWord s.cellar c.bankBlend (rBlend c.it) 0)

/-- Conversion-class width (R63): every present data operand is 8 bits wide or narrower. -/
def doubled (s : State) (c : Ctx) : Bool :=
  (rCls c.it == .elem || rCls c.it == .gate || rCls c.it == .conv || rCls c.it == .stat) && blendKind s c == 3 &&
  allOpds.all fun o => !rHas c.it o || decide ((dFmt (rDesc c.it o)).bits ≤ 8)

end Sys2Proof.Machine
end

