-- ==== Sys2Proof/Machine/Cask.lean ====
section
/-! DEFINITION. Casks (R136-R144): terms, scaling down, read-out, and the summary trackers. -/

namespace Sys2Proof.Machine

/-- add_value of R138. -/
def Cask.addValue (k : Cask) (v : Word) : Cask :=
  let x := f32Val v
  let k := { k with terms := k.terms + 1, negz := k.negz && x.isZero && x.neg? }
  match x with
  | .nan => { k with nan := true }
  | .inf false => { k with pinf := true }
  | .inf true => { k with ninf := true }
  | .fin _ _ d => { k with c := k.c + x.num * (2 ^ 280 / d : Nat) }

/-- The exact product of two FP32 values as a cask takes it: below 2^-126 a signed zero (R138). -/
def productTerm (a b : Word) : XVal :=
  let p := (f32Val a).mul (f32Val b)
  if p.isFin && p.abs.lt minNormal then .zero p.neg? else p

/-- add_product of R138. -/
def Cask.addProduct (k : Cask) (a b : Word) : Cask :=
  let x := f32Val a
  let y := f32Val b
  let p := productTerm a b
  let k := { k with terms := k.terms + 1, negz := k.negz && p.isZero && p.neg? }
  if x.isNan || y.isNan then { k with nan := true }
  else
    match p with
    | .nan => { k with zinf := true }
    | .inf false => { k with pinf := true }
    | .inf true => { k with ninf := true }
    | .fin _ _ d => { k with c := k.c + p.num * (2 ^ 280 / d : Nat) }

/-- scale_down by 2^-d of R140; d of 600 or more empties C. -/
def Cask.scaleDown (k : Cask) (d : Nat) : Cask :=
  if 600 ≤ d then { k with c := 0, sticky := k.sticky || k.c != 0 }
  else { k with c := k.c / (2 ^ d : Nat), sticky := k.sticky || k.c % (2 ^ d : Nat) != 0 }

/-- The INVALID of read_out (R141). -/
def Cask.invalid (k : Cask) : Bool := k.zinf || (k.pinf && k.ninf)

/-- The value of read_out (R141, Table 8-3). -/
def Cask.value (k : Cask) : XVal :=
  if k.nan || k.invalid then .nan
  else if k.pinf then .inf false
  else if k.ninf then .inf true
  else if k.c == 0 && !k.sticky then .zero (decide (0 < k.terms) && k.negz)
  else .ofInt (2 * k.c + (if k.sticky then 1 else 0)) (2 ^ 281) false

/-- The flags of read_out. -/
def Cask.flags (k : Cask) : List Flag := if k.invalid then [.invalid] else []

/-- Reading a cask raises its flag in the row's tally. -/
def RowAcc.readOut (a : RowAcc) (k : Cask) : RowAcc := { a with tally := a.tally.raiseAll k.flags }

/-- The summary tracker takes a value, or its magnitude when UM_SM_CFG.abs_max = 1 in the context (R200). -/
def sumTrack (c : Ctx) (t : Option XVal) (v : XVal) : Option XVal := trackMax t (if c.smCfg.getLsbD 4 then v.abs else v)

end Sys2Proof.Machine
end

