-- ==== Sys2Proof/Machine/RowProg.lean ====
section
/-! DEFINITION. The class programs: what each element and each row turnaround of a class computes (R70-R72, R101, R145-R172). -/

namespace Sys2Proof.Machine

/-- A value presented to an output (false = out0) at an index tuple of Table 5-3; none for a position that fill treats. -/
structure Put where
  out1 : Bool
  i : Idx
  y : Option XVal
deriving DecidableEq, Repr

/-- out0 or out1. -/
def outOpd (out1 : Bool) : Opd := if out1 then .out1 else .out0

/-- The "(row)" outputs of Table 2-5. -/
def rowOut (cls : Cls) (out1 : Bool) : Bool :=
  match cls with
  | .stat => true
  | .dot | .lse | .amax => !out1
  | .xent => !out1
  | .smax | .normFwd => out1
  | _ => false

/-- The present outputs. -/
def outsOf (r : Record) : List Bool := (if rHas r .out0 then [false] else []) ++ (if rHas r .out1 then [true] else [])

/-- Puts for the element outputs of a position that is not written with a value (Table 3-9). -/
def fillPuts (r : Record) (i : Idx) : List Put :=
  ((outsOf r).filter fun o => !rowOut (rCls r) o).map fun o => ⟨o, i, none⟩

/-! ### ELEM, GATE, CONV (R54, R72, R101) -/

/-- v6 (after the gate multiplier of GATE) and v7 of an element at a grade, the input-stage flags and the lane's. -/
structure ElemVal where
  y0 : Word
  y1 : Word
  inFlags : List Flag
  flags : List Flag
deriving DecidableEq, Repr

/-- The blend of an element at grade g. -/
def elemValue (s : State) (c : Ctx) (g : Nat) (i : Idx) : ElemVal :=
  let r := c.it
  let none' : InVal := ⟨0, []⟩
  let x0 := readInput s c .in0 i
  let x1 := if (rCls r == .elem || rCls r == .gate) && rHas r .in1 then readInput s c .in1 i else none'
  let x2 := if rCls r == .elem && rHas r .in2 && !maskReads r then readInput s c .in2 i else none'
  let inF := x0.flags ++ x1.flags ++ x2.flags
  if rCls r == .gate then
    let b := runBlend s c g x0.v 0 0
    let p := laneMul (f32Canon b.1) x1.v
    ⟨p.1, 0, inF, b.2.2 ++ p.2⟩
  else
    let b := runBlend s c g x0.v x1.v x2.v
    ⟨f32Canon b.1, f32Canon b.2.1, inF, b.2.2⟩

/-- One kept element of ELEM, GATE or CONV. -/
def elementwise (s : State) (c : Ctx) (a : RowAcc) (i : Idx) : RowAcc × List Put :=
  let v := elemValue s c (rGrade c.it) i
  ({ a with kept := a.kept + 1, tally := a.tally.raiseAll (v.inFlags ++ v.flags), rowMax := sumTrack c a.rowMax (f32Val v.y0) },
   (outsOf c.it).map fun o => ⟨o, i, some (f32Val (if o then v.y1 else v.y0))⟩)

/-! ### STAT, DOT, AMAX (R101, R145-R147) -/

def statElem (s : State) (c : Ctx) (a : RowAcc) (i : Idx) : RowAcc :=
  let x := readInput s c .in0 i
  let b := runBlend s c (rGrade c.it) x.v 0 0
  let y := f32Canon b.1
  { a with kept := a.kept + 1, k0 := a.k0.addValue y, outMax := trackMax a.outMax (f32Val y),
           rowMax := sumTrack c a.rowMax (f32Val y), tally := a.tally.raiseAll (x.flags ++ b.2.2) }

def dotElem (s : State) (c : Ctx) (a : RowAcc) (i : Idx) : RowAcc :=
  let x := readInput s c .in0 i
  let y := readInput s c .in1 i
  { a with kept := a.kept + 1, k0 := a.k0.addProduct x.v y.v, rowMax := sumTrack c a.rowMax (productTerm x.v y.v),
           tally := a.tally.raiseAll (x.flags ++ y.flags) }

/-- AMAX captures its input; one whose VINTAGE operand is that input captures nothing (R105). -/
def amaxCaptures (r : Record) : Bool := rCls r == .amax && rVslotEn r && dScale (rDesc r .in0) != scVintage

def amaxElem (s : State) (c : Ctx) (a : RowAcc) (i : Idx) : RowAcc :=
  let x := readInput s c .in0 i
  let v := f32Val x.v
  let a := { a with kept := a.kept + 1, outMax := trackMax a.outMax v.abs, tally := a.tally.raiseAll x.flags }
  if amaxCaptures c.it then { a with cap := captureMax a.cap v, nonfin := a.nonfin + (if v.isFin then 0 else 1) } else a

/-! ### Normalisation (R150-R157) -/

def normFwdElem (s : State) (c : Ctx) (a : RowAcc) (i : Idx) : RowAcc :=
  let x := readInput s c .in0 i
  { a with kept := a.kept + 1, k0 := a.k0.addValue x.v, k1 := a.k1.addProduct x.v x.v,
           rowMax := sumTrack c a.rowMax (f32Val x.v), tally := a.tally.raiseAll x.flags }

/-- g = dy * gamma, state point 5, with the flag of its MUL (R154). -/
def normG (c : Ctx) (i : Idx) (dy gam : Word) : Word × List Flag :=
  let p := (f32Val dy).mul (f32Val gam)
  (statePoint c.it i 5 p, nanFlag p [f32Val dy, f32Val gam])

def normBwdElem (s : State) (c : Ctx) (a : RowAcc) (i : Idx) : RowAcc :=
  let x := readInput s c .in0 i
  let dy := readInput s c .in1 i
  let gam := readInput s c .in2 i
  let g := normG c i dy.v gam.v
  { a with kept := a.kept + 1, k0 := a.k0.addValue x.v, k1 := a.k1.addProduct x.v x.v, k2 := a.k2.addValue g.1,
           k3 := a.k3.addProduct g.1 x.v, rowMax := sumTrack c a.rowMax (f32Val dy.v),
           tally := a.tally.raiseAll (x.flags ++ dy.flags ++ gam.flags ++ g.2) }

/-- mu, w and rstd of R150 from finite read-outs, with the flags of rsqrt_row, whose image runs with K = 0 (log 102). A zero mu keeps
the sign of its read-out (log 72). -/
def normConsts (c : Ctx) (i : Idx) (s1 s2 : XVal) : (Word × Word × Word) × List Flag :=
  let r := c.it
  let n : XVal := .ofInt (rD0 r) 1 false
  let eps := (f32Val (rParam r)).abs
  let mu := if rRms r then 0 else statePoint r i 0 (s1.divBy (rD0 r) 1)
  let var :=
    if rRms r then s2.divBy (rD0 r) 1
    else ((n.mul s2).add (s1.mul s1).negate).divBy (rD0 r * rD0 r) 1
  let var := if var.neg? then XVal.zero false else var
  let w := statePoint r i 1 (var.add eps)
  let q := runBuiltin 22 (rGrade r) 0 w 0 0
  ((mu, w, statePoint r i 2 (f32Val q.1)), q.2)

/-- The mean values a and b of R155; the sign of a zero is IEEE 754's (log 72), and an infinite mu can make them NaN without a flag
(log 73). -/
def normMeans (c : Ctx) (i : Idx) (mu rstd : Word) (s3 s4 : XVal) : Word × Word :=
  let r := c.it
  let cov := if rRms r then s4 else s4.add ((f32Val mu).mul s3).negate
  (if rRms r then 0 else statePoint r i 3 (s3.divBy (rD0 r) 1),
   statePoint r i 4 (((f32Val rstd).mul cov).divBy (rD0 r) 1))

/-- The row turnaround of the normalisation classes (R150, R151, R155, R158, R159). -/
def normTurn (c : Ctx) (a : RowAcc) (i : Idx) : RowAcc :=
  let bwd := rCls c.it == .normBwd
  let casks := if bwd then [a.k0, a.k1, a.k2, a.k3] else [a.k0, a.k1]
  let a := casks.foldl RowAcc.readOut a
  let vals := casks.map Cask.value
  let a :=
    if vals.all (·.isFin) then
      let k := normConsts c i a.k0.value a.k1.value
      let m := normMeans c i k.1.1 k.1.2.2 a.k2.value a.k3.value
      { a with mu := k.1.1, w := k.1.2.1, rstd := k.1.2.2, ca := if bwd then m.1 else 0, cb := if bwd then m.2 else 0,
               tally := a.tally.raiseAll k.2, rowCase := 7 }
    else
      { a with mu := f32NaN, w := f32NaN, rstd := f32NaN, rowCase := 9,
               tally := if casks.any (·.nan) then a.tally else a.tally.raise .invalid }
  let sum1 := round32 (if bwd then a.k2.value else a.k0.value)
  let sum2 := round32 (if bwd then a.k3.value else a.k1.value)
  { a with rowY1 := f32Val a.rstd, sum1 := sum1, sum2 := sum2, icTerm := some (if bwd then sum1 else sum2) }

/-- A lane operation whose FP32 result is state point p (R157), with its flag. -/
def laneState (c : Ctx) (i : Idx) (p : Nat) (x : XVal) (ops : List Word) : Word × List Flag :=
  (statePoint c.it i p x, nanFlag x (ops.map f32Val))

/-- The apply pass of NORM_FWD (R152); a non-finite row only reads gamma and beta (R151). -/
def normFwdApply (s : State) (c : Ctx) (a : RowAcc) (i : Idx) : RowAcc × List Put :=
  let r := c.it
  let gam := readInput s c .in1 i
  let bet : InVal := if rRms r then ⟨0, []⟩ else readInput s c .in2 i
  let inF := gam.flags ++ bet.flags
  let x := (readInput s c .in0 i).v
  let (y, fl) : Word × List Flag :=
    if a.rowCase == 9 then (f32NaN, [])
    else if rRms r then
      let h := laneState c i 4 ((f32Val x).mul (f32Val a.rstd)) [x, a.rstd]
      let y := laneMul h.1 gam.v
      (y.1, h.2 ++ y.2)
    else
      let d := laneState c i 3 ((f32Val x).add (f32Val a.mu).negate) [x, a.mu]
      let h := laneState c i 4 ((f32Val d.1).mul (f32Val a.rstd)) [d.1, a.rstd]
      let y := laneFma h.1 gam.v bet.v
      (y.1, d.2 ++ h.2 ++ y.2)
  ({ a with tally := a.tally.raiseAll (inF ++ fl) }, [⟨false, i, some (f32Val y)⟩])

/-- The apply pass of NORM_BWD (R156). -/
def normBwdApply (s : State) (c : Ctx) (a : RowAcc) (i : Idx) : RowAcc × List Put :=
  let r := c.it
  let x := (readInput s c .in0 i).v
  let g := normG c i (readInput s c .in1 i).v (readInput s c .in2 i).v
  let (y, fl) : Word × List Flag :=
    if a.rowCase == 9 then (f32NaN, [])
    else
      let d := if rRms r then (x, []) else laneState c i 6 ((f32Val x).add (f32Val a.mu).negate) [x, a.mu]
      let h := laneState c i 7 ((f32Val d.1).mul (f32Val a.rstd)) [d.1, a.rstd]
      let t := if rRms r then (g.1, []) else laneState c i 8 ((f32Val g.1).add (f32Val a.ca).negate) [g.1, a.ca]
      let u := laneState c i 9 (((f32Val h.1).negate.mul (f32Val a.cb)).add (f32Val t.1)) [h.1, a.cb, t.1]
      let y := laneMul u.1 a.rstd
      (y.1, g.2 ++ d.2 ++ h.2 ++ t.2 ++ u.2 ++ y.2)
  ({ a with tally := a.tally.raiseAll fl }, [⟨false, i, some (f32Val y)⟩])

/-! ### SMAX, LSE, XENT (R160-R170) -/

/-- The scaled value u of a kept element, state point 0 (R160, R170), with the input-stage flags. -/
def scaledU (s : State) (c : Ctx) (i : Idx) : InVal :=
  let x := readInput s c .in0 i
  ⟨statePoint c.it i 0 ((f32Val x.v).mul (f32Val (rParam c.it))), x.flags⟩

/-- ceil(Z / 2^42) (R162). -/
def ceilZ (z : Int) : Int := -(-z / 2 ^ 42)

/-- A term enters K0 at m24 * 2^(n - M - 23) (R162). -/
def Cask.addTerm (k : Cask) (t : TermParts) (m : Int) : Cask :=
  { k with c := k.c + t.m24 * 2 ^ (257 + t.n - m).toNat, terms := k.terms + 1, negz := false }

/-- A kept finite entry meets the running maximum (R162): the cask is scaled down when it rises, the row is marked for racking
when an entered term has become negligible, and a negligible term is not added. -/
def enterTerm (a : RowAcc) (t : TermParts) : RowAcc :=
  let m := max (a.mRun.getD (ceilZ t.z)) (ceilZ t.z)
  let k := a.k0.scaleDown (m - a.mRun.getD m).toNat
  let rack := a.needRack || (match a.lowN with | some n => decide (n - m < -192) | none => false)
  if t.n - m < -192 then { a with mRun := some m, k0 := k, needRack := rack }
  else { a with mRun := some m, k0 := k.addTerm t m, needRack := rack, lowN := some (min (a.lowN.getD t.n) t.n) }

/-- Pass 1 of SMAX, LSE and XENT on a kept element (R160-R162, R167). -/
def smaxElem (s : State) (c : Ctx) (a : RowAcc) (i : Idx) : RowAcc :=
  let u := scaledU s c i
  let a := { a with kept := a.kept + 1, tally := a.tally.raiseAll u.flags, rowMax := sumTrack c a.rowMax (f32Val u.v),
                    labelU := if (i.i0 : Int) = a.label then some u.v else a.labelU }
  match f32Val u.v with
  | .nan => { a with nNan := a.nNan + 1 }
  | .inf false => { a with nPinf := a.nPinf + 1 }
  | .inf true => { a with nNinf := a.nNinf + 1 }
  | .fin _ _ _ => enterTerm { a with nFin := a.nFin + 1 } (termParts u.v (rGrade c.it))

/-- Racking (R163): K0 again over the kept finite terms against the known M, without the negligible ones. -/
def rackElem (s : State) (c : Ctx) (m : Int) (k : Cask) (i : Idx) : Cask :=
  if kept s c i then
    let u := (scaledU s c i).v
    if (f32Val u).isFin then
      let t := termParts u (rGrade c.it)
      if t.n - m < -192 then k else k.addTerm t m
    else k
  else k

/-- The case of Table 10-1 that the kept entries give. -/
def tableCase (c : Ctx) (a : RowAcc) : Nat :=
  if a.kept = 0 then 1
  else if a.nNan ≠ 0 then 2
  else if a.nPinf ≠ 0 then (if rStrict c.it then 4 else 3)
  else if a.nFin = 0 then (if rStrict c.it then 6 else 5)
  else 7

/-- The row case: Table 10-1 for SMAX and LSE, R167 for XENT (0 ignored, 8 label out of range). -/
def rowCaseOf (c : Ctx) (a : RowAcc) : Nat :=
  if rCls c.it != .xent then tableCase c a
  else if a.label < 0 then 0
  else if tableCase c a = 1 then 1
  else if tableCase c a = 2 then 2
  else if (rD0 c.it : Int) ≤ a.label then 8
  else tableCase c a

/-- LN2 of R164. -/
def ln2c : Int := 0xB17217F7D1CF79AC

/-- rcp_row and ln_row: the built-in RCP and LN sequences at the itinerary's grade (R164), with K = 0 (log 102). -/
def rcpRow (c : Ctx) (x : Word) : Word := (runBuiltin 21 (rGrade c.it) 0 x 0 0).1
def lnRow (c : Ctx) (x : Word) : Word := (runBuiltin 11 (rGrade c.it) 0 x 0 0).1

/-- λ - u_L clamped at +0 (Table 10-2, R168). -/
def lossValue (lam ul : XVal) : XVal :=
  let x := lam.add ul.negate
  if x.neg? || x.isZero then .zero false else x

/-- The loss of a row (R167, Table 10-2), with λ where case 7 forms it. -/
def lossOf (c : Ctx) (a : RowAcc) (case : Nat) (lam : XVal) : XVal :=
  match case with
  | 0 | 1 => .zero false
  | 2 | 8 => .nan
  | _ =>
    match a.labelU with
    | none => .inf false
    | some u =>
      let pinf := (f32Val u).isInf && !(f32Val u).neg?
      match case with
      | 3 => if pinf then f32Val (lnRow c (round32 (.ofInt a.nPinf 1 false))) else .inf false
      | 4 => if pinf then .nan else .inf false
      | 5 => .inf false
      | 6 => .nan
      | _ => lossValue lam (f32Val u)

/-- The turnaround of SMAX, LSE and XENT (R164, R165, R167, R172). -/
def smaxTurn (c : Ctx) (a : RowAcc) (i : Idx) : RowAcc :=
  let r := c.it
  let case := rowCaseOf c a
  let tcase := if a.label < 0 then 0 else tableCase c a
  let m := a.mRun.getD 0
  let sigma := if tcase = 7 then statePoint r i 1 a.k0.value else 0
  let recip := if tcase = 7 ∧ hasPass2 r then statePoint r i 2 (f32Val (rcpRow c sigma)) else 0
  let l := if tcase = 7 then statePoint r i 3 (f32Val (lnRow c sigma)) else 0
  let lam := (XVal.ofInt (m * ln2c) (2 ^ 64) false).add (f32Val l)
  let lse := match tcase with
    | 1 => XVal.inf true | 2 => .nan | 3 => .inf false | 4 => .inf false | 5 => .inf true | 6 => .inf true | _ => lam
  let y := if rCls r == .xent then lossOf c a case lam else lse
  let fl := (if case = 1 then [Flag.emptyRow] else []) ++ (if case = 4 ∨ case = 6 ∨ case = 8 then [Flag.invalid] else [])
  let sum1 := match tcase with
    | 7 => sigma | 2 => f32NaN | 3 => f32Inf false | 4 => f32Inf false | _ => 0
  { a with rowCase := case, sigma := sigma, recip := recip, rowY0 := y, rowY1 := y, sum1 := sum1, sum2 := round32 y,
           icTerm := if rCls r == .xent ∧ case ≠ 0 ∧ case ≠ 1 then some (round32 y) else none,
           tally := a.tally.raiseAll fl }

/-- The exact term t of a finite u against the row's M (R162); below 2^-4096 it is held at that exponent (log 25). -/
def termValue (c : Ctx) (a : RowAcc) (u : Word) : XVal :=
  let t := termParts u (rGrade c.it)
  .ofScaled t.m24 (max (t.n - a.mRun.getD 0 - 23) (-4096))

/-- p_i of Table 10-1 in the cases that have one. -/
def probOf (c : Ctx) (a : RowAcc) (case : Nat) (u : Word) : XVal :=
  let x := f32Val u
  match case with
  | 3 => if x.isInf && !x.neg? then .fin false 1 a.nPinf else .zero false
  | 7 => if x.isFin then (termValue c a u).mul (f32Val a.recip) else .zero false
  | _ => .zero false

/-- Pass 2 of SMAX and XENT on a kept element (R166, Table 10-1, Table 10-2). -/
def smaxWrite (s : State) (c : Ctx) (a : RowAcc) (i : Idx) : RowAcc × List Put :=
  let y : XVal :=
    match a.rowCase with
    | 0 => .zero false
    | 2 | 4 | 6 | 8 => .nan
    | k =>
      let p := probOf c a k (scaledU s c i).v
      if rCls c.it == .xent && decide ((i.i0 : Int) = a.label) then p.add (.fin true 1 1) else p
  (a, [⟨rCls c.it == .xent, i, some y⟩])

/-! ### PERM (R70, R71) -/

/-- One output position of PERM. An index out of range applies the fill bit under mask mode NONE too, and KEEP leaves a block-scaled
code as it is (log 66). -/
def permWrite (s : State) (c : Ctx) (a : RowAcc) (i : Idx) : RowAcc × List Put :=
  let r := c.it
  let len := rowLength s c i
  let index := fetch s c .in1 i
  if len ≤ i.i0 then (a, fillPuts r i)
  else if index.2 then ({ a with tally := a.tally.raiseAll [.invalid, .permRange] }, fillPuts r i)
  else
    let idx := signedOf 32 index.1
    if idx < 0 ∨ (len : Int) ≤ idx then ({ a with tally := a.tally.raise .permRange }, fillPuts r i)
    else
      let x := readInput s c .in0 { i with i0 := idx.toNat }
      ({ a with kept := a.kept + 1, tally := a.tally.raiseAll x.flags, rowMax := sumTrack c a.rowMax (f32Val x.v) },
       [⟨false, i, some (f32Val x.v)⟩])

/-! ### Dispatch by class -/

/-- The row state at the start of a row: cleared casks, and XENT's label (R137, R167, Table 1-8). -/
def rowStart (s : State) (c : Ctx) (i : Idx) : RowAcc :=
  if rCls c.it == .xent then
    let x := fetch s c .in1 i
    { RowAcc.clear with label := if x.2 then rD0 c.it else signedOf 32 x.1 }
  else RowAcc.clear

/-- The row is an ignored row of XENT (R167): nothing of it is read, raised or counted. -/
def ignoredRow (c : Ctx) (a : RowAcc) : Bool := rCls c.it == .xent && decide (a.label < 0)

/-- Pass 1 of the classes that only accumulate in it, on one element. -/
def scanElem (s : State) (c : Ctx) (a : RowAcc) (i : Idx) : RowAcc :=
  if ignoredRow c a then a
  else
    let f := maskFlags s c i
    if rCls c.it == .perm then a
    else
      let a := { a with tally := a.tally.raiseAll f }
      if kept s c i then
        match rCls c.it with
        | .stat => statElem s c a i
        | .dot => dotElem s c a i
        | .amax => amaxElem s c a i
        | .normFwd => normFwdElem s c a i
        | .normBwd => normBwdElem s c a i
        | .smax | .lse | .xent => smaxElem s c a i
        | _ => a
      else a

/-- The writing pass on one element: the only pass of ELEM, GATE and CONV, pass 2 of the others. -/
def writeElem (s : State) (c : Ctx) (a : RowAcc) (i : Idx) : RowAcc × List Put :=
  match rCls c.it with
  | .perm => permWrite s c { a with tally := a.tally.raiseAll (maskFlags s c i) } i
  | .elem | .gate | .conv =>
    let a := { a with tally := a.tally.raiseAll (maskFlags s c i) }
    if kept s c i then elementwise s c a i else (a, fillPuts c.it i)
  | .normFwd => normFwdApply s c a i
  | .normBwd => normBwdApply s c a i
  | .smax | .xent => if kept s c i then smaxWrite s c a i else (a, fillPuts c.it i)
  | _ => (a, [])

/-- The row turnaround (R142, R145-R148, R150-R155, R164-R168). -/
def rowTurn (c : Ctx) (a : RowAcc) (i : Idx) : RowAcc :=
  let empty := if a.kept = 0 then [Flag.emptyRow] else []
  match rCls c.it with
  | .stat =>
    let a := a.readOut a.k0
    let s1 := round32 a.k0.value
    { a with rowY0 := a.k0.value, rowY1 := readMax a.outMax, sum1 := s1, icTerm := some s1, tally := a.tally.raiseAll empty }
  | .dot =>
    let a := a.readOut a.k0
    let s1 := round32 a.k0.value
    { a with rowY0 := a.k0.value, sum1 := s1, icTerm := some s1, tally := a.tally.raiseAll empty }
  | .amax =>
    let y := a.outMax.getD (.zero false)
    { a with rowY0 := y, rowMax := a.outMax, tally := a.tally.raiseAll empty }
  | .normFwd | .normBwd => normTurn c a i
  | .smax | .lse | .xent => smaxTurn c a i
  | _ => a

/-- The (row) outputs' puts. -/
def rowPuts (r : Record) (a : RowAcc) (i : Idx) : List Put :=
  ((outsOf r).filter (rowOut (rCls r))).map fun o => ⟨o, i, some (if o then a.rowY1 else a.rowY0)⟩

end Sys2Proof.Machine
end

