-- ==== Sys2Proof/Machine/Emit.lean ====
section
/-! DEFINITION. From presented values to stored bits: block scales, capture, counts, tasting, codes noted for the twin stream
(R77, R79, R89, R96-R100, R105, R108, R114-R117, R235). -/

namespace Sys2Proof.Machine

/-- A code of w bits at a bit position (R33). -/
def bitWrites (pos w code : Nat) : ByteWrites :=
  (List.range ((pos % 8 + w + 7) / 8)).map fun k =>
    (pos / 8 + k, BitVec.ofNat 8 ((2 ^ w - 1) * 2 ^ (pos % 8) / 256 ^ k), BitVec.ofNat 8 (code % 2 ^ w * 2 ^ (pos % 8) / 256 ^ k))

/-! ### Blocks -/

/-- The output's blocks run along d1, so its scales come from a first evaluation (R100). -/
def d1Blocks (d : Desc) : Bool := dIsBlock d && dBlockDir d

/-- A value enters the block it lies in, in a list of blocks. -/
def bamAdd (l : List ((Bool × Nat) × BlockAcc)) (key : Bool × Nat) (y : XVal) : List ((Bool × Nat) × BlockAcc) :=
  match l with
  | [] => [(key, BlockAcc.empty.add y)]
  | (k, b) :: t => if k == key then (k, b.add y) :: t else (k, b) :: bamAdd t key y

/-- Two accounts of one block together. -/
def BlockAcc.join (a b : BlockAcc) : BlockAcc := { amax := if a.amax.lt b.amax then b.amax else a.amax, nan := a.nan || b.nan }

/-- A block's account added to a list of blocks. -/
def bamJoin (l : List ((Bool × Nat) × BlockAcc)) (x : (Bool × Nat) × BlockAcc) : List ((Bool × Nat) × BlockAcc) :=
  match l with
  | [] => [x]
  | (k, b) :: t => if k == x.1 then (k, b.join x.2) :: t else (k, b) :: bamJoin t x

/-- What a list of blocks holds for a block. -/
def bamFind (l : List ((Bool × Nat) × BlockAcc)) (key : Bool × Nat) : BlockAcc :=
  match l with
  | [] => .empty
  | (k, b) :: t => if k == key then b else bamFind t key

/-- The account of the d0 block of an output that holds an element, from the kept elements of the block in the element's own row
(R97-R99; log 68 for rows that share a block). -/
def d0Block (s : State) (c : Ctx) (a : RowAcc) (out1 : Bool) (i : Idx) : BlockAcc :=
  let b := dBlock (rDesc c.it (outOpd out1))
  let lo := i.i0 / b * b
  (List.range (min b (rD0 c.it - lo))).foldl (fun acc k =>
    (writeElem s c a { i with i0 := lo + k }).2.foldl (fun acc p =>
      if p.out1 == out1 then (match p.y with | some y => acc.add y | none => acc) else acc) acc) .empty

/-- The block of a put, and its account, when its output is block-scaled. -/
def putBlock (s : State) (c : Ctx) (a : RowAcc) (p : Put) : BlockAcc :=
  let d := rDesc c.it (outOpd p.out1)
  if d1Blocks d then bamFind c.bam (p.out1, blockOf c.it d p.i)
  else if dIsBlock d then d0Block s c a p.out1 p.i
  else .empty

/-- Is the put at the first element of its block, where the scale code is written? -/
def firstOfBlock (d : Desc) (i : Idx) : Bool :=
  if dBlockDir d then idxJ i.i1 (dStride1 d) % dBlock d == 0 else i.i0 % dBlock d == 0

/-! ### Tasting (R114-R117) -/

/-- Classes that are tasted. -/
def tastedClass (cls : Cls) : Bool :=
  cls == .elem || cls == .gate || cls == .conv || cls == .normFwd || cls == .smax

/-- Tasting runs for the itinerary (R114). -/
def tasted (c : Ctx) : Bool := rTaste c.it && c.tsCtrl.getLsbD 0 && tastedClass (rCls c.it)

/-- The tile of an element is sampled (R115). -/
def sampled (c : Ctx) (i : Idx) : Bool :=
  let r := c.it
  let t := ((i.i3 * rD2 r + i.i2) * rD1 r + i.i1) * cdiv (rD0 r) 64 + i.i0 / 64
  let h := BitVec.ofNat 32 t * 0x9E3779B1#32 + BitVec.ofNat 32 (t / 2 ^ 32) * 0x27D4EB2F#32
  let h := h + rStep r * 0x85EBCA6B#32 + (rTag r).zeroExtend 32 * 0xC2B2AE35#32
  let h := h ^^^ (h >>> 16)
  let h := h * 0x7FEB352D#32
  let h := h ^^^ (h >>> 15)
  let m := min 16 (bitsOf c.tsCtrl 1 5).toNat
  h.toNat % 2 ^ m == 0

/-- 0xFFFF_FFFF. -/
def max32 : Nat := 0xFFFFFFFF

/-- The term of R116 for a compared value: q the code as stored, S the output's scale, y the value before it. A stored infinity
gives the largest term; a NaN code, of which R116 gives no value, a free one (log 26). -/
def convTerm (r : Record) (i : Idx) (f : Fmt) (scale : XVal) (code : Nat) (y : XVal) : Nat :=
  if y.isZero then 0
  else if f.isNanCode code || scale.isNan then (Config.nanTerm (linIndex r i)).toNat
  else
    let q := (f.value code).mul scale
    if q.isInf then max32
    else
      let diff := (q.add y.negate).abs
      min (diff.num.natAbs * y.den * 2 ^ 32 / (diff.den * y.num.natAbs)) max32

/-- A compared value enters the tasting record (R116). -/
def tasteValue (r : Record) (i : Idx) (f : Fmt) (scale : XVal) (st : Stored) (y : XVal) (t : Taste) : Taste :=
  let term := convTerm r i f scale st.code y
  { t with nCmp := t.nCmp + 1,
           nZeroed := t.nZeroed + (if (f.value st.code).isZero && !y.isZero then 1 else 0),
           nClipped := t.nClipped + (if st.ovf then 1 else 0),
           convMax := max t.convMax term, convSum := t.convSum + term }

/-- ord of R117. -/
def ordOf (c : Word) : Int := if c.getLsbD 31 then -((c &&& 0x7FFFFFFF#32).toNat : Int) else c.toNat

/-- One comparison of y with the reference (R117). -/
def tasteFn (t : Taste) (y yref : Word) : Taste :=
  if f32IsNan y && f32IsNan yref then t
  else if f32IsNan y || f32IsNan yref then { t with fnNan := t.fnNan + 1 }
  else
    let d := min (ordOf y - ordOf yref).natAbs max32
    { t with fnMax := max t.fnMax d, fnSum := t.fnSum + d }

/-- Tile count and function comparison of an element in the storing pass (R115, R117). -/
def tasteElem (s : State) (c : Ctx) (i : Idx) (t : Taste) : Taste :=
  if tasted c && sampled c i then
    let t := if i.i0 % 64 == 0 then { t with tiles := t.tiles + 1 } else t
    if c.tsCtrl.getLsbD 8 && onePassWrite c.it && kept s c i then
      let y := elemValue s c (rGrade c.it) i
      let yr := elemValue s c 3 i
      let t := tasteFn t y.y0 yr.y0
      if rHas c.it .out1 then tasteFn t y.y1 yr.y1 else t
    else t
  else t

/-! ### Output of a put -/

/-- The first evaluation of R100 or the pre-pass of R108: nothing is stored; block amax values and the pre-pass A are formed. -/
def emitFirst (c : Ctx) (a : RowAcc) (p : Put) : RowAcc :=
  let d := rDesc c.it (outOpd p.out1)
  match p.y with
  | none => a
  | some y =>
    let a := if d1Blocks d then { a with bam := bamAdd a.bam (p.out1, blockOf c.it d p.i) y } else a
    if dScale d == scVintage && rCls c.it != .amax then { a with cap := captureMax a.cap y } else a

/-- The selector of an output (Table 5-3). -/
def selOf (out1 : Bool) : Nat := if out1 then 1 else 0

/-- The twin stream notes what this itinerary stores (R235). -/
def twinNotes (s : State) (c : Ctx) : Bool := s.twin.active && s.twin.guest == c.guest

/-- The writes of a place that no element later in the itinerary's order has been issued for: where rows of an output share bytes,
the last element in that order stays (R6, R36). -/
def placeWrites (c : Ctx) (pos e : Nat) (ws : ByteWrites) : List (Nat × Nat) × ByteWrites :=
  if c.wrote.any fun x => x.1 == pos && decide (e < x.2) then ([], []) else ([(pos, e)], ws)

/-- The places and bytes of an element's code and of its block's scale code, which the block's first element writes (R33, R96). -/
def codeWrites (c : Ctx) (p : Put) (blk : Nat) (code : Option Nat) : List (Nat × Nat) × ByteWrites :=
  let r := c.it
  let d := rDesc r (outOpd p.out1)
  let e := linIndex r p.i
  let a := scaleBase r d + blockOf r d p.i
  let x := if dIsBlock d && firstOfBlock d p.i then placeWrites c (8 * a) e [(a, 0xFF#8, BitVec.ofNat 8 blk)] else ([], [])
  let y := match code with
    | some v => placeWrites c (dPos d p.i) e (bitWrites (dPos d p.i) (dFmt d).bits v)
    | none => ([], [])
  (y.1 ++ x.1, x.2 ++ y.2)

/-- A put in the storing evaluation: the row state after it and the bytes it writes. Only a finite y is compared, and only a compared value
adds to n_clipped (R116, log 101). -/
def emitStore (s : State) (c : Ctx) (a : RowAcc) (p : Put) : RowAcc × ByteWrites :=
  let r := c.it
  let d := rDesc r (outOpd p.out1)
  let f := dFmt d
  let blk : Nat × XVal := if dIsBlock d then blockScale d (putBlock s c a p) else (0, .zero false)
  match p.y with
  | none =>
    let w := codeWrites c p blk.1 (if rFillZero r then some 0 else none)
    ({ a with stored := w.1 ++ a.stored }, w.2)
  | some y =>
    let st := store f (rSat r) (storeRnd c f p.i (selOf p.out1)) (presented c d blk.2 y)
    let t := a.tally.raiseAll st.flags
    let t := if st.nan then t.countNan else t
    let t := if st.ovf then t.countOvf else t
    let a := { a with tally := t }
    let a := if dScale d == scVintage && rCls r != .amax then
      { a with cap := captureMax a.cap y, nonfin := a.nonfin + (if y.isFin then 0 else 1) } else a
    let a := if tasted c && !rowOut (rCls r) p.out1 && f != .fp32 && y.isFin && sampled c p.i then
      { a with taste := tasteValue r p.i f (outputScale c d blk.2) st y a.taste } else a
    let a := if twinNotes s c then { a with noted := ⟨p.out1, linIndex r p.i, st.code⟩ :: a.noted } else a
    let w := codeWrites c p blk.1 (some st.code)
    ({ a with stored := w.1 ++ a.stored }, w.2)

/-- The puts of an element or a row, in either evaluation. -/
def emitPuts (s : State) (c : Ctx) (a : RowAcc) (ps : List Put) : RowAcc × ByteWrites :=
  if c.storing then
    ps.foldl (fun x p => let y := emitStore s c x.1 p; (y.1, x.2 ++ y.2)) (a, [])
  else (ps.foldl (emitFirst c) a, [])

/-- The writing pass on one element, with its outputs. -/
def writeStep (s : State) (c : Ctx) (a : RowAcc) (i : Idx) : RowAcc × ByteWrites :=
  let x := writeElem s c a i
  let e := emitPuts s c x.1 x.2
  if c.storing then ({ e.1 with taste := tasteElem s c i e.1.taste }, e.2) else e

/-! ### Write units -/

/-- Byte writes grouped into the 256 B units they lie in (01_boundary.md), in order of first use. -/
def unitAdd (l : List WUnit) (ctx : Bool) (w : Nat × Byte × Byte) : List WUnit :=
  match l with
  | [] => [{ ctx := ctx, unit := w.1 / 256, bytes := [w] }]
  | u :: t => if u.unit = w.1 / 256 then { u with bytes := u.bytes ++ [w] } :: t else u :: unitAdd t ctx w

/-- The write units of a list of byte writes. -/
def unitsOf (ctx : Bool) (ws : ByteWrites) : List WUnit := ws.foldl (fun l w => unitAdd l ctx w) []

/-- Words written at an address, as byte writes. -/
def wordWrites (a : Nat) (ws : List Word) : ByteWrites :=
  (ws.zipIdx.map fun x => bitWrites (8 * (a + 4 * x.2)) 32 x.1.toNat).flatten

/-- The per-row record of Table 12-8. -/
def rowRecord (a : RowAcc) : List Word :=
  let n15 (k : Nat) := min k 0x7FFF
  [round32 (readMax a.rowMax), a.sum1, a.sum2,
   BitVec.ofNat 32 (n15 a.tally.nan + n15 a.tally.ovf * 2 ^ 15 + (if a.tally.count .emptyRow = 0 then 0 else 2 ^ 30))]

/-- The per-row record's writes under ROW_SP (R204). -/
def rowRecordWrites (r : Record) (row : Nat) (a : RowAcc) : ByteWrites :=
  if rSummary r = 3 then wordWrites (rSumBase r + 64 + 16 * row) (rowRecord a) else []

end Sys2Proof.Machine
end

