-- ==== Sys2Proof/Machine/Engine.lean ====
section
/-! DEFINITION. The row engines: rows dispatched, beats, turnarounds, racking, and the write port (R36, R53, R62-R65, R100, R108,
R146, R162-R163, R198, R212). -/

namespace Sys2Proof.Machine

/-! ### Evaluations -/

/-- The slot is EMPTY under COLD_JIT and an output is VINTAGE: a pre-pass runs first (R108). -/
def coldJit (c : Ctx) : Bool :=
  c.slotEmpty && bitsOf c.policy 12 2 == 0 &&
  (outsOf c.it).any fun o => dScale (rDesc c.it (outOpd o)) == scVintage

/-- Two evaluations are made (R100, R108). -/
def twoEval (c : Ctx) : Bool := coldJit c || (outsOf c.it).any fun o => d1Blocks (rDesc c.it (outOpd o))

/-- Column groups of 1,024 columns (R36). -/
def colGroups (r : Record) : Nat := cdiv (rD0 r) 1024

/-- Work units of one evaluation: rows, or in column mode one unit for each engine of each group (R53). -/
def workUnits (r : Record) : Nat := if isCol r then rD3 r * rD2 r * colGroups r * 16 else rowCount r

/-- The first element of column j of work unit w, when there is such a column (R53). -/
def colIdx (r : Record) (w j : Nat) : Option Idx :=
  let q := w / 16
  let i0 := 1024 * (q % colGroups r) + 64 * (w % 16) + j
  if i0 < rD0 r then some ⟨i0, 0, q / colGroups r % rD2 r, q / colGroups r / rD2 r⟩ else none

/-- The columns of a work unit. -/
def colList (r : Record) (w : Nat) : List Idx := (List.range 64).filterMap (colIdx r w)

/-- The exponent of R107 for H and a policy word. -/
def chosenExp (h : XVal) (policy : Word) : Int :=
  if h.isZero then 0
  else max (-126) (min 127 (leastExp h (Fmt.ofCode (BitVec.ofNat 4 (bitsOf policy 8 4).toNat)).max + (bitsOf policy 4 4).toNat))

/-- Every row of the evaluation is done: the storing one begins, with the exponent of R108 where a pre-pass ran. -/
def nextSweep (c : Ctx) : Ctx :=
  if !c.storing && c.rowsDone == workUnits c.it then
    { c with storing := true, nextRow := 0, rowsDone := 0,
             vOut := if coldJit c then BitVec.ofInt 8 (chosenExp (c.preCap.getD (.zero false)) c.policy) else c.vOut }
  else c

/-- Every row of the storing evaluation is done. -/
def ctxDone (c : Ctx) : Bool := c.storing && c.rowsDone == workUnits c.it

/-- The last row has been dispatched (R50). -/
def dispatchedAll (c : Ctx) : Bool := c.storing && c.nextRow == workUnits c.it

/-! ### Rows into their itinerary -/

/-- Tasting records within one itinerary together. -/
def Taste.join (a b : Taste) : Taste :=
  { tiles := a.tiles + b.tiles, nCmp := a.nCmp + b.nCmp, nZeroed := a.nZeroed + b.nZeroed, nClipped := a.nClipped + b.nClipped,
    convMax := max a.convMax b.convMax, convSum := a.convSum + b.convSum, fnMax := max a.fnMax b.fnMax,
    fnNan := a.fnNan + b.fnNan, fnSum := a.fnSum + b.fnSum }

/-- A finished row of the storing evaluation enters the itinerary's tallies, cask and trackers (R148, R192, R201, R105). -/
def mergeRow (c : Ctx) (a : RowAcc) : Ctx :=
  { c with tally := c.tally.merge a.tally,
           icask := match a.icTerm with | some v => c.icask.addValue v | none => c.icask,
           rowMax := trackMax c.rowMax (readMax a.rowMax),
           emptyRows := c.emptyRows + a.tally.count .emptyRow,
           cap := captureJoin c.cap a.cap, nonfin := c.nonfin + a.nonfin,
           taste := c.taste.join a.taste, noted := a.noted ++ c.noted }

/-- A finished row of the first evaluation leaves its block amax values and its capture (R100, R108). -/
def mergeFirst (c : Ctx) (a : RowAcc) : Ctx :=
  { c with bam := a.bam.foldl bamJoin c.bam, preCap := captureJoin c.preCap a.cap }

/-- The places that a beat issues enter the itinerary's (R6, R36). -/
def noteWrote (c : Ctx) (a : RowAcc) : Ctx := { c with wrote := a.stored ++ c.wrote }

/-- A row (or one column) finished. -/
def mergeAny (c : Ctx) (a : RowAcc) : Ctx :=
  noteWrote (if c.storing then mergeRow c a else mergeFirst c a) a

/-- One more work unit done. -/
def unitDone (c : Ctx) : Ctx := nextSweep { c with rowsDone := c.rowsDone + 1 }

/-! ### Beats -/

/-- Engine e. -/
def State.engine (s : State) (e : EngineId) : Engine := vAt s.engines e

/-- Engine e replaced. -/
def State.setEngine (s : State) (e : EngineId) (x : Engine) : State := { s with engines := vPut s.engines e x }

/-- The row engine may issue a beat: in RUN and DRAIN, or in a step of HOLD (R257), not in a retention stop (R25), and below
the budget of the window (R212). -/
def canBeat (s : State) (e : EngineId) : Bool :=
  let x := s.engine e
  !s.retention && !budgetSpent s.power x.issued &&
  (s.unit == .run || s.unit == .drain || (s.unit == .hold && s.trace.stepping && x.stepLeft != 0))

/-- A beat is counted (R212, R224, R257) and restarts the itinerary's progress count (R198). -/
def countBeat (s : State) (e : EngineId) (ctx : Bool) : State :=
  let x := s.engine e
  let s := s.setEngine e { x with issued := x.issued + 1, stepLeft := if s.unit == .hold then x.stepLeft - 1 else x.stepLeft }
  let s := if e = 0 then { s with power := { s.power with beats := s.power.beats + 1 } } else s
  match s.ctx ctx with
  | some c => s.setCtx ctx (some { c with progress := 0 })
  | none => s

/-- Beats that a slice takes in a phase (R62, R63, Table 3-7): one for a conversion-class blend, whose slices are twice as wide at rate ½. -/
def sliceBeats (s : State) (c : Ctx) (first : Bool) : Nat :=
  match rCls c.it with
  | .elem | .gate | .conv | .stat => if blendKind s c = 3 then 1 else blendRate s c
  | .smax | .lse | .xent => if first then rGrade c.it else 1
  | _ => 1

/-- Elements of a slice (R36, R63). -/
def sliceWidth (s : State) (c : Ctx) : Nat := if doubled s c then 128 else 64

/-- The elements of slice p of a row. -/
def sliceIdx (s : State) (c : Ctx) (row p : Nat) : List Idx :=
  let w := sliceWidth s c
  (List.range (min w (rD0 c.it - p * w))).map fun k => { rowIdx c.it row with i0 := p * w + k }

/-- The largest block along d0 among the outputs, or 1: a store needs every element of its block (R97-R99). -/
def d0Span (r : Record) : Nat :=
  (outsOf r).foldl (fun n o =>
    let d := rDesc r (outOpd o)
    if dIsBlock d && !dBlockDir d then max n (dBlock d) else n) 1

/-- The elements that the stores of slice p of a row rest on: the slice, out to whole blocks. -/
def sliceReads (s : State) (c : Ctx) (row p : Nat) : List Idx :=
  let w := sliceWidth s c
  let b := d0Span c.it
  let lo := p * w / b * b
  let hi := min (cdiv ((p + 1) * w) b * b) (rD0 c.it)
  (List.range (hi - lo)).map fun k => { rowIdx c.it row with i0 := lo + k }

/-- Slices of a row. -/
def slices (s : State) (c : Ctx) : Nat := cdiv (rD0 c.it) (sliceWidth s c)

/-- The contexts in the order their itineraries started. -/
def ctxOrder (s : State) : List Bool := s.entries.filterMap (·.ctx)

/-- The next row of an itinerary in row mode as an engine takes it: its label and length are read first, and in the storing evaluation
after a first one a two-pass class goes on from its saved row state. A two-pass class shows pass 1 and its turnaround as phases 1 and 2 in the
first evaluation too, and phase 5 in the writing pass alone (R258, log 108). -/
def startRow (s : State) (b : Bool) (c : Ctx) (x : Engine) : Ctx × Engine :=
  let i := rowIdx c.it c.nextRow
  let c' := noteRow s c i
  let fresh := { x with ctx := b, row := c.nextRow, pos := 0, sub := 0, lanes := [], waiting := false, acc := rowStart s c' i,
                        phase := if !c.storing && !hasPass2 c.it then .first else .pass1 }
  ({ c' with nextRow := c.nextRow + 1 },
   match c.saved.find? (·.1 == c.nextRow) with
   | some y => if c.storing then { fresh with phase := .pass2, acc := y.2 } else fresh
   | none => fresh)

/-- The next work unit of a column walk as its engine takes it (R53); in a pre-pass too its phase is the column walk (log 91). -/
def startColumns (s : State) (b : Bool) (c : Ctx) (x : Engine) : Ctx × Engine :=
  ({ c with nextRow := c.nextRow + 1 },
   { x with phase := .column, ctx := b, row := c.nextRow, pos := 0, sub := 0, acc := .clear,
            lanes := (colList c.it c.nextRow).map (rowStart s c), waiting := false })

/-- An idle engine takes the next row of the oldest itinerary that has one; in column mode a unit belongs to one engine (R36,
R53). -/
def takeRow (s : State) (e : EngineId) : Option (Bool × Ctx × Engine) :=
  (ctxOrder s).findSome? fun b =>
    match s.ctx b with
    | none => none
    | some c =>
      if workUnits c.it ≤ c.nextRow then none
      else if isCol c.it then (if c.nextRow % 16 == e.toNat then some (b, startColumns s b c (s.engine e)) else none)
      else some (b, startRow s b c (s.engine e))

/-- The engine between two rows: it shows its last beat as long as the itinerary runs (R258). -/
def Engine.release (x : Engine) : Engine :=
  { Engine.empty with issued := x.issued, stepLeft := x.stepLeft, shown := x.shown, ctx := x.ctx, row := x.row }

/-- The engine when the itinerary of a context ends (R258). -/
def Engine.leave (x : Engine) (b : Bool) : Engine :=
  if x.ctx == b then { Engine.empty with issued := x.issued, stepLeft := x.stepLeft } else x

/-- Units that fit into the write FIFO (01_boundary.md): 64. -/
def fifoDepth : Nat := 64

/-- The beat waits at the write FIFO. -/
def waitBeat (s : State) (e : EngineId) (x : Engine) : State := s.setEngine e { x with waiting := true }

/-- A beat that writes: it waits as it stands when its units do not fit (R10); otherwise they enter the FIFO with the new engine and
context. -/
def issueWrites (s : State) (e : EngineId) (b : Bool) (ws : ByteWrites) (c : Ctx) (old x : Engine) : State :=
  let us := unitsOf b ws
  if fifoDepth < s.wfifo.length + us.length then waitBeat s e old
  else
    let s := { s with wfifo := s.wfifo ++ us }
    countBeat ((s.setCtx b (some c)).setEngine e x) e b

/-- The (row) outputs of a row, and its record. -/
def emitRow (s : State) (c : Ctx) (row : Nat) (a : RowAcc) (ps : List Put) : RowAcc × ByteWrites :=
  let x := emitPuts s c a ps
  (x.1, if c.storing then x.2 ++ rowRecordWrites c.it row x.1 else x.2)

/-- The end of a row: its (row) outputs, its record, and its state entering the itinerary. -/
def endRow (s : State) (c : Ctx) (row : Nat) (a : RowAcc) (ps : List Put) : Ctx × ByteWrites :=
  let x := emitRow s c row a ps
  (mergeAny c x.1, x.2)

/-- One slice of an accumulating pass. -/
def scanBeat (s : State) (e : EngineId) (b : Bool) (c : Ctx) (x : Engine) : State :=
  let a := (sliceIdx s c x.row x.pos).foldl (scanElem s c) x.acc
  let x := { x with acc := a, pos := x.pos + 1, sub := 0, waiting := false }
  let x :=
    if x.pos < slices s c then x
    else if rCls c.it == .perm then { x with phase := if c.storing then .pass2 else .first, pos := 0 }
    else { x with phase := if a.needRack && a.nNan == 0 then .racking else .turnaround, pos := 0 }
  let c := if rCls c.it == .perm && !c.storing && x.pos == 0 then { c with saved := c.saved ++ [(x.row, a)] } else c
  countBeat ((s.setCtx b (some c)).setEngine e x) e b

/-- One slice of a writing pass; the last one ends the row. -/
def writeBeat (s : State) (e : EngineId) (b : Bool) (c : Ctx) (x : Engine) : State :=
  let r := (sliceIdx s c x.row x.pos).foldl (fun (p : RowAcc × ByteWrites) i =>
    let q := writeStep s c p.1 i
    (q.1, p.2 ++ q.2)) (x.acc, [])
  if x.pos + 1 < slices s c then
    issueWrites s e b r.2 (noteWrote c r.1) x { x with acc := { r.1 with stored := [] }, pos := x.pos + 1, sub := 0, waiting := false }
  else
    let y := endRow s c x.row r.1 (if hasPass2 c.it then rowPuts c.it r.1 (rowIdx c.it x.row) else [])
    issueWrites s e b (r.2 ++ y.2) (unitDone y.1) x x.release

/-- One step of a column walk: every lane takes the element of its column at i1 = pos (R53, R146). -/
def columnBeat (s : State) (e : EngineId) (b : Bool) (c : Ctx) (x : Engine) : State :=
  let ls := List.zipWith (fun i a => scanElem s c a { i with i1 := x.pos }) (colList c.it x.row) x.lanes
  let x := { x with lanes := ls, pos := x.pos + 1, sub := 0, waiting := false }
  let x := if x.pos < rD1 c.it then x else { x with phase := .turnaround }
  countBeat (s.setEngine e x) e b

/-- The pass of a phase is an accumulating one. -/
def isScan (c : Ctx) (p : Phase) : Bool := !onePassWrite c.it && (p == .pass1 || (p == .first && !hasPass2 c.it))

/-- The elements that a beat of an engine in a row reads. -/
def beatReads (s : State) (c : Ctx) (x : Engine) : List Idx :=
  if x.phase == .column then (colList c.it x.row).map fun i => { i with i1 := x.pos }
  else if isScan c x.phase then sliceIdx s c x.row x.pos
  else sliceReads s c x.row x.pos

/-- A phase whose work BEAT does. -/
def Phase.beats : Phase → Bool
  | .pass1 | .pass2 | .first | .column => true
  | .none | .turnaround | .racking => false

/-- The beat's work: what it reads is noted, then a slice spends its beats, the last of which computes. -/
def rowBeat (s : State) (e : EngineId) (b : Bool) (c : Ctx) (x : Engine) : State :=
  if !x.phase.beats then s
  else
    let c := noteReads s c (isScan c x.phase || x.phase == .column) (ignoredRow c x.acc) (beatReads s c x)
    let x := { x with shown := x.phase }
    let s := s.setCtx b (some c)
    if x.sub + 1 < sliceBeats s c (isScan c x.phase) then countBeat (s.setEngine e { x with sub := x.sub + 1, waiting := false }) e b
    else if x.phase == .column then columnBeat s e b c x
    else if isScan c x.phase then scanBeat s e b c x
    else writeBeat s e b c x

/-- BEAT: one beat of row engine e (R52-R54). It has no effect when the engine may issue none or has no work. -/
def execBeat (e : EngineId) (s : State) : Out :=
  if !canBeat s e then .next s
  else
    let x := s.engine e
    if x.phase == .none then
      match takeRow s e with
      | none => .next s
      | some (b, c, x) =>
        if areasInside c.it then .next (rowBeat ((s.setCtx b (some c)).setEngine e x) e b c x) else .fault .outsideScratchpad
    else
      match s.ctx x.ctx with
      | none => .next s
      | some c => if areasInside c.it then .next (rowBeat s e x.ctx c x) else .fault .outsideScratchpad

/-- The turnaround of a row: the row constants of a class with a second pass, the results of the others (R142). -/
def turnRow (s : State) (e : EngineId) (b : Bool) (c : Ctx) (x : Engine) : State :=
  let i := rowIdx c.it x.row
  let a := rowTurn c x.acc i
  if hasPass2 c.it then
    let c := if c.storing then c else { c with saved := c.saved ++ [(x.row, a)] }
    let x := { x with acc := a, phase := if c.storing then .pass2 else .first, shown := .turnaround, pos := 0, sub := 0, waiting := false }
    countBeat ((s.setCtx b (some c)).setEngine e x) e b
  else
    let y := endRow s c x.row a (rowPuts c.it a i)
    let x := { x with shown := .turnaround }
    issueWrites s e b y.2 (unitDone y.1) x x.release

/-- The row number of a column for R204. -/
def colRow (r : Record) (i : Idx) : Nat := (i.i3 * rD2 r + i.i2) * rD0 r + i.i0

/-- The results of the columns of a work unit (R146). -/
def turnColumns (s : State) (e : EngineId) (b : Bool) (c : Ctx) (x : Engine) : State :=
  let y := (List.zip (colList c.it x.row) x.lanes).foldl (fun (p : Ctx × ByteWrites) q =>
    let a := rowTurn c q.2 q.1
    let z := emitRow s c (colRow c.it q.1) a (rowPuts c.it a q.1)
    (mergeAny p.1 z.1, p.2 ++ z.2)) (c, [])
  let x := { x with shown := .turnaround }
  issueWrites s e b y.2 (unitDone y.1) x x.release

/-- ROW_TURNAROUND: the turnaround of the row that engine e has walked (R142), one counted beat (log 76). -/
def execRowTurnaround (e : EngineId) (s : State) : Out :=
  let x := s.engine e
  if !canBeat s e || x.phase != .turnaround then .next s
  else
    match s.ctx x.ctx with
    | none => .next s
    | some c =>
      if areasInside c.it then .next (if isCol c.it then turnColumns s e x.ctx c x else turnRow s e x.ctx c x)
      else .fault .outsideScratchpad

/-- RACKING: K0 again over the row's kept finite terms against the known M, without the negligible ones (R162, R163). The whole
row is one counted beat (log 76). -/
def execRacking (e : EngineId) (s : State) : Out :=
  let x := s.engine e
  if !canBeat s e || x.phase != .racking then .next s
  else
    match s.ctx x.ctx with
    | none => .next s
    | some c =>
      if areasInside c.it then
        let k := (List.range (rD0 c.it)).foldl (fun k i0 =>
          rackElem s c (x.acc.mRun.getD 0) k { rowIdx c.it x.row with i0 := i0 }) Cask.clear
        let x := { x with acc := { x.acc with k0 := k, needRack := false }, phase := .turnaround, shown := .racking, pos := 0 }
        .next (countBeat (s.setEngine e x) e x.ctx)
      else .fault .outsideScratchpad

/-! ### The write port -/

/-- The twin FIFO is full: the write port stops and no completion of the twin guest posts (R27). -/
def twinFull (s : State) : Bool := s.twin.active && decide (64 ≤ s.twin.own.length)

/-- Groups of 8 bytes that a unit touches. -/
def groupsOf (u : WUnit) : List Nat := (u.bytes.map fun w => w.1 / 8).eraseDups

/-- The groups of a unit that lie in poisoned segments. -/
def poisonedGroups (s : State) (u : WUnit) : List Nat := (groupsOf u).filter fun g => s.poison.contains (g / 8)

/-- The byte lies inside an area that the itinerary writes: an output footprint, its scale area or the summary area (R13). -/
def ownsByte (r : Record) (a : Nat) : Bool := (outAreas r).any fun x => decide (x.lo ≤ a) && decide (a < x.hi)

/-- The bits of a byte that the writes of an itinerary cover. -/
def coverOf (ws : ByteWrites) (a : Nat) : Byte := ws.foldl (fun m w => if w.1 = a then m ||| w.2.1 else m) 0

/-- What the zeros of a merge spare of a byte: the bits that earlier units of the same itinerary have written, and, beside the itinerary's own
areas, a group that a unit has merged already, where no old bit is left (R6, log 19). -/
def sparedBits (s : State) (b : Bool) (a : Nat) : Byte :=
  if s.merged.contains (a / 8) && !(s.ctx b).any (ownsByte ·.it a) then 0xFF#8 else coverOf ((s.ctx b).elim [] Ctx.covered) a

/-- Zeros in whole groups, but for the bits to spare (Table 1-9). -/
def zeroWrites (spare : Nat → Byte) (gs : List Nat) : ByteWrites :=
  (gs.map fun g => (List.range 8).map fun k => (8 * g + k, ~~~(spare (8 * g + k)), (0 : Byte))).flatten

/-- The bytes that writes replace, as they are in memory. -/
def replacedBytes (m : List Host.Cell) (ws : ByteWrites) : ByteWrites := ws.map fun w => (w.1, w.2.1, memByte m w.1)

/-- Memory is about to take an itinerary's writes: the reads of every itinerary in execution keep finding what they replace. A later read
of its own would otherwise depend on when its beats issue (R14), and one of the other itinerary, whose inputs R50 lets this one write, on
the timing of both (R6, log 79). -/
def State.guardReads (s : State) (ws : ByteWrites) : State :=
  let keep (c : Ctx) : Ctx := { c with before := replacedBytes s.mem ws ++ c.before }
  { s with ctx0 := s.ctx0.map keep, ctx1 := s.ctx1.map keep }

/-- The whole bytes of an area, as writes. -/
def areaWrites (a : Area) : ByteWrites := (List.range (a.hi - a.lo)).map fun k => (a.lo + k, 0xFF#8, 0)

/-- What a unit writes: zeros in its poisoned groups, the bytes beside its itinerary's areas among them, whatever the fill field holds, then its
own bytes (Table 1-9, log 19). -/
def unitWrites (s : State) (u : WUnit) : ByteWrites := zeroWrites (sparedBits s u.ctx) (poisonedGroups s u) ++ u.bytes

/-- The unit's itinerary has made progress, and its written bits have grown (R19, R198). -/
def noteAccepted (s : State) (u : WUnit) : State :=
  match s.ctx u.ctx with
  | some c => s.setCtx u.ctx (some { c with covered := u.bytes ++ c.covered, progress := 0 })
  | none => s

/-- A write unit accepted by the scratchpad (R13, R15, R19). -/
def acceptUnit (s : State) (u : WUnit) : State :=
  let ws := unitWrites s u
  noteAccepted { s.guardReads ws with mem := putBytes s.mem ws, merged := poisonedGroups s u ++ s.merged } u

/-- WRITE_ACCEPT: the oldest unit of the write FIFO is accepted (R13, R15). -/
def execWriteAccept (s : State) : Out :=
  match s.wfifo with
  | [] => .next s
  | u :: rest =>
    if twinFull s then .next s
    else if u.bytes.all fun w => decide (w.1 < scratchSize) then .next (acceptUnit { s with wfifo := rest } u)
    else .fault .outsideScratchpad

/-! ### Read returns -/

/-- A poisoned segment met by a read (R18, R19): logged on page 8, ISTAT.POISON, the POISON event. -/
def notePoison (s : State) (seg : Nat) : State :=
  let s := setCause (logEvent s 8 0xB0#8 stOk (BitVec.ofNat 20 seg)) 8 1
  traceBase s 5 0x28 (BitVec.ofNat 32 (64 * seg)) 0

/-- The poison marks of a segment as the scratchpad returns it. -/
def markSeg (l : List Nat) (seg : Nat) (p : Bool) : List Nat :=
  if p then (if l.contains seg then l else seg :: l) else l.filter (· != seg)

/-- The itinerary of a context reads bytes of a line: of an input or its scales, or of an output that a merge under KEEP reads
(R39, R198). -/
def readsLine (r : Record) (line : Nat) : Bool :=
  let l := opdAreas r .in0 ++ opdAreas r .in1 ++ opdAreas r .in2 ++ (if rFillZero r then [] else opdAreas r .out0 ++ opdAreas r .out1)
  l.any (Area.meets ⟨512 * line, 512 * line + 512⟩)

/-- A context's progress count when a line returns: the read restarts it when the line holds bytes its itinerary reads (R198,
log 43). -/
def lineProgress (line : Nat) (c : Ctx) : Ctx := if readsLine c.it line then { c with progress := 0 } else c

/-- A segment returns with its mark; with the mark go the merges under it, and a poisoned one is logged. -/
def returnSeg (s : State) (seg : Nat) (p : Bool) : State :=
  let s := { s with poison := markSeg s.poison seg p, merged := if p then s.merged else s.merged.filter (· / 8 != seg) }
  if p then notePoison s seg else s

/-- A restore runs in a requested BIST, whose tests wait for it: the unit's one reader there (R177, R233). -/
def bistRestores (s : State) : Bool :=
  s.unit == .bist && s.test.requested && s.vint.xfer.any fun x => !x.op.isSave

/-- READ_RETURN: a line returns with the poison marks of its eight segments (R18), for a beat, a record or a restore; the read restarts the
progress count of the itinerary it is for (R198). -/
def execReadReturn (line : BitVec 17) (mask : BitVec 8) (s : State) : Out :=
  if !(s.running || bistRestores s) || decide (scratchSize / 512 ≤ line.toNat) then .next s
  else
    let s := (List.range 8).foldl (fun s k => returnSeg s (line.toNat * 8 + k) (mask.getLsbD k)) s
    .next { s with ctx0 := s.ctx0.map (lineProgress line.toNat), ctx1 := s.ctx1.map (lineProgress line.toNat) }

end Sys2Proof.Machine
end

