-- ==== Sys2Proof/Machine/Port.lean ====
section
/-! DEFINITION. The register port: what a write does before its register is reached, and the end of a debug step (R20-R22, R179,
R257). -/

namespace Sys2Proof.Machine

/-- A register write: in OFF the chip register space discards it (R22). -/
def regWrite (s : State) (f : State → State) : Out := .next (if s.unit == .off then s else f s)

/-- How many of the command bits of a write are set. -/
def cmdCount (v : Word) (bits : List Nat) : Nat := (bits.filter fun b => v.getLsbD b).length

/-- A write that carries command bits: more than one is CMD_MULTI, which stores nothing (R248); otherwise the unit state is judged
(R179), the RW fields are stored and the command acts. A write with no command bit is judged by the unit state too, where its register
holds command bits alone as well (log 75). -/
def cmdWrite (s : State) (p : PageId) (off : BitVec 12) (v : Word) (bits : List Nat) (legal : Bool) (act : State → State) : State :=
  if 1 < cmdCount v bits then refuseMulti s p off
  else if legal then act s
  else refuseState s p off

/-- A write that the unit state allows or that R179 refuses. -/
def stateWrite (s : State) (p : PageId) (off : BitVec 12) (legal : Bool) (act : State → State) : State :=
  if legal then act s else refuseState s p off

/-- The states in which pages 10 to 13 take RW writes (Table 11-5). -/
def State.rwOpen (s : State) : Bool := s.running || s.unit == .fault

/-- A step ends without STEP_DONE (R257). -/
def dropStep (s : State) : State :=
  { s with trace := { s.trace with stepping := false },
           engines := s.engines.map fun x => { x with stepLeft := 0 } }

/-- The write FIFO is issued whatever else has stopped (R199, R205). -/
def issueAll (s : State) (us : List WUnit) : State :=
  (us.filter fun u => u.bytes.all fun w => decide (w.1 < scratchSize)).foldl acceptUnit s

/-- The part of an area that lies in the scratchpad. -/
def inScratch (a : Area) : Area := ⟨a.lo, min a.hi scratchSize⟩

/-- Areas that hold unspecified values: a free value in every byte (R199, R205). -/
def scrambleAreas (s : State) (l : List Area) : State :=
  (l.map inScratch).foldl (fun s a => { s with mem := memScramble s.mem s.free a.lo (a.hi - a.lo), free := s.free + (a.hi - a.lo) }) s

end Sys2Proof.Machine
end

