-- ==== Sys2Proof/Machine/Vintage.lean ====
section
/-! DEFINITION. Vintage slots: records, policy, the data window and transfers (R102-R113). -/

namespace Sys2Proof.Machine

/-! ### Records (Tables 6-1 and 6-2) -/

/-- Fields of a slot record. -/
def recCount (r : SlotRec) : Nat := (bitsOf (vAt r 0) 0 5).toNat
def recNewest (r : SlotRec) : Nat := (bitsOf (vAt r 0) 8 4).toNat
def recPolicy (r : SlotRec) : Word := vAt r 1
def recVWrite (r : SlotRec) : BitVec 8 := (vAt r 2).extractLsb' 0 8
def recVRead (r : SlotRec) : BitVec 8 := (vAt r 2).extractLsb' 16 8

/-- Slot EMPTY (R102). -/
def recEmpty (r : SlotRec) : Bool := recCount r == 0

/-- The two exponents written. -/
def recPutExps (r : SlotRec) (w rd : BitVec 8) : SlotRec := vPut r 2 (w.zeroExtend 32 ||| (rd.zeroExtend 32 <<< 16))

/-- History entry i, a BF16 code. -/
def recHist (r : SlotRec) (i : Nat) : BitVec 16 := (vAt r (BitVec.ofNat 4 (4 + i / 2))).extractLsb' (16 * (i % 2)) 16

/-- History entry i written. -/
def recPutHist (r : SlotRec) (i : Nat) (c : BitVec 16) : SlotRec :=
  let k := BitVec.ofNat 4 (4 + i / 2)
  let w := vAt r k
  vPut r k (if i % 2 = 0 then (w &&& 0xFFFF0000#32) ||| c.zeroExtend 32 else (w &&& 0x0000FFFF#32) ||| (c.zeroExtend 32 <<< 16))

/-- Position of the n-th newest entry. -/
def recPos (r : SlotRec) (n : Nat) : Nat := (recNewest r + 16 - n) % 16

/-- The value of a history entry: a BF16 code, whose subnormals are zeros everywhere in the unit (R78, log 67). -/
def histValue (c : BitVec 16) : XVal := let x := Fmt.bf16.value c.toNat; if x.abs.lt minNormal then .zero false else x

/-- H of R107: the largest of the newest min(depth, count) entries. -/
def recMax (r : SlotRec) : XVal :=
  let n := min ((bitsOf (recPolicy r) 0 4).toNat + 1) (recCount r)
  (List.range n).foldl (fun h k =>
    let x := histValue (recHist r (recPos r k))
    if h.lt x then x else h) (.zero false)

/-- v_write chosen afresh under R107. -/
def recChoose (r : SlotRec) : SlotRec :=
  recPutExps r (BitVec.ofInt 8 (chosenExp (recMax r) (recPolicy r))) (recVRead r)

/-- An exponent code that the record may hold (R102). -/
def expOk (e : BitVec 8) : Bool := e != 0x80#8 && e != 0x81#8

/-- No field of a policy word holds a reserved value (Table 6-2). -/
def policyOk (p : Word) : Bool :=
  let f := (bitsOf p 8 4).toNat
  decide (2 ≤ f) && decide (f ≤ 7) && decide ((bitsOf p 12 2).toNat ≤ 1) && !p.getLsbD 15 && bitsOf p 24 8 == 0 &&
  expOk (p.extractLsb' 16 8)

/-- Is history position i one of the count newest? -/
def recValid (r : SlotRec) (i : Nat) : Bool := decide ((recNewest r + 16 - i) % 16 < recCount r)

/-- The check of R111. -/
def recordOk (r : SlotRec) : Bool :=
  decide (recCount r ≤ 16) && vAt r 0 &&& 0xFFFFF0E0#32 == 0 && vAt r 2 &&& 0xFF00FF00#32 == 0 &&
  [12, 13, 14, 15].all (fun k => vAt r (BitVec.ofNat 4 k) == 0) && policyOk (recPolicy r) &&
  expOk (recVWrite r) && expOk (recVRead r) &&
  (List.range 16).all fun i =>
    if recValid r i then decide ((recHist r i).toNat ≤ 0x7F7F) else recHist r i == 0

/-- set_policy on one slot (R110). -/
def recSetPolicy (p : Word) (r : SlotRec) : SlotRec :=
  let r := vPut r 1 p
  if recEmpty r then r else recChoose r

/-! ### Busy slots (R104, R111, R112) -/

/-- The slot is pinned by an itinerary that has started and not completed (R104). -/
def slotPinned (s : State) (k : Nat) : Bool := s.entries.any fun e => match e.pin with | some p => p.toNat == k | none => false

/-- The slot lies in a transfer's range. -/
def Xfer.covers (x : Xfer) (k : Nat) : Bool :=
  let q := match x.op with | .saveSlots | .restoreSlots => k | .saveMaps | .restoreMaps => k / 16
  decide (x.first ≤ q) && decide (q < x.first + x.count)

/-- The slot is open in the data window or part of a running transfer: reason 0x40. -/
def slotOpen (s : State) (k : Nat) : Bool :=
  (match s.vint.window with | some w => w.slot.toNat == k | none => false) ||
  (match s.vint.xfer with | some x => x.covers k | none => false)

/-- The first busy slot of a range. -/
def firstBusy (s : State) (lo n : Nat) : Option Nat :=
  ((List.range n).map (lo + ·)).find? fun k => slotPinned s k || slotOpen s k

/-- Slot k. -/
def Vintage.slot (v : Vintage) (k : Nat) : SlotRec := vAt v.slots (BitVec.ofNat 10 k)

/-! ### Slot control, page 6 (R110) -/

/-- Every slot from lo on, n of them, changed. -/
def mapSlots (v : Vintage) (lo n : Nat) (f : SlotRec → SlotRec) : Vintage :=
  { v with slots := v.slots.mapIdx fun i r => if lo ≤ i ∧ i < lo + n then f r else r }

/-- set_policy or clear over the range, with the refusals of R110 in their order. -/
def vsCommand (s : State) (isPolicy : Bool) : State :=
  let v := s.vint
  let lo := v.rangeFirst.toNat
  let n := v.rangeLast.toNat + 1 - lo
  if v.rangeLast.toNat < lo then logEvent s 6 0x90 stBadField (BitVec.ofNat 20 lo)
  else if isPolicy && !policyOk v.policy then logEvent s 6 0x91 stBadField 0
  else
    match firstBusy s lo n with
    | some k => logEvent s 6 0x92 stIllegal (BitVec.ofNat 20 k)
    | none => { s with vint := mapSlots v lo n (if isPolicy then recSetPolicy v.policy else fun _ => slotReset) }

/-- A write of UM_VS_CMD. -/
def vsCmdWrite (v : Word) (s : State) : State :=
  cmdWrite s 6 0x048 v [0, 1] s.running fun s =>
    if v.getLsbD 0 then vsCommand s true else if v.getLsbD 1 then vsCommand s false else s

/-- SET_POLICY: UM_VS_CMD.set_policy (R110). -/
def execSetPolicy (v : Word) (s : State) : Out := regWrite s (vsCmdWrite (v ||| 1#32))

/-- VS_CLEAR: UM_VS_CMD.clear (R110). -/
def execVsClear (v : Word) (s : State) : Out := regWrite s (vsCmdWrite (v ||| 2#32))

/-! ### The data window, page 7 (R111) -/

/-- open: the copy of the named slot, unless R111 refuses it: VSLOT_BUSY, then VW_OPEN, then VW_BUSY (order: log 69; reopening: log 47). -/
def vwOpen (s : State) : State :=
  let k := s.vint.ctrlSlot
  if slotPinned s k.toNat then logEvent s 7 0x92 stIllegal (k.zeroExtend 20)
  else
    match s.vint.window with
    | some w =>
      if w.slot != k then logEvent s 7 0x93 stIllegal (w.slot.zeroExtend 20)
      else if s.vint.xfer.isSome then logEvent s 7 0x94 stIllegal 0
      else { s with vint := { s.vint with window := some ⟨k, vAt s.vint.slots k, vAt s.vint.maps (k.extractLsb' 4 6)⟩ } }
    | none =>
      if s.vint.xfer.isSome then logEvent s 7 0x94 stIllegal 0
      else { s with vint := { s.vint with window := some ⟨k, vAt s.vint.slots k, vAt s.vint.maps (k.extractLsb' 4 6)⟩ } }

/-- VW_NOT_OPEN with the page offset of the write. -/
def vwNotOpen (s : State) (off : BitVec 12) : State := logEvent s 7 0x95 stIllegal (off.zeroExtend 20)

/-- apply: record and bitmap written as one action when the record passes. -/
def vwApply (s : State) : State :=
  match s.vint.window with
  | none => vwNotOpen s 0x040
  | some w =>
    if recordOk w.record then
      { s with vint := { s.vint with slots := vPut s.vint.slots w.slot w.record,
                                     maps := vPut s.vint.maps (w.slot.extractLsb' 4 6) w.map, window := none } }
    else logEvent s 7 0x96 stBadField (w.slot.zeroExtend 20)

/-- discard. -/
def vwDiscard (s : State) : State :=
  if s.vint.window.isSome then { s with vint := { s.vint with window := none } } else vwNotOpen s 0x040

/-- A write of UM_VW_CTRL: slot is stored, then the command acts (R248). -/
def vwCtrlWrite (v : Word) (s : State) : State :=
  cmdWrite s 7 0x040 v [16, 17, 18] s.running fun s =>
    let s := { s with vint := { s.vint with ctrlSlot := v.extractLsb' 0 10 } }
    if v.getLsbD 16 then vwOpen s else if v.getLsbD 17 then vwApply s else if v.getLsbD 18 then vwDiscard s else s

/-- VW_OPEN: UM_VW_CTRL.open. -/
def execVwOpen (v : Word) (s : State) : Out := regWrite s (vwCtrlWrite (v ||| 0x10000#32))

/-- VW_APPLY: UM_VW_CTRL.apply. -/
def execVwApply (v : Word) (s : State) : Out := regWrite s (vwCtrlWrite (v ||| 0x20000#32))

/-- VW_DISCARD: UM_VW_CTRL.discard. -/
def execVwDiscard (v : Word) (s : State) : Out := regWrite s (vwCtrlWrite (v ||| 0x40000#32))

/-- Word w of a bitmap replaced (Table 6-4). -/
def mapPutWord (m : BitVec 4096) (w : Nat) (v : Word) : BitVec 4096 :=
  (m &&& ~~~((0xFFFFFFFF#4096) <<< (32 * w))) ||| (v.zeroExtend 4096 <<< (32 * w))

/-- Word w of a bitmap. -/
def mapWord (m : BitVec 4096) (w : Nat) : Word := m.extractLsb' (32 * w) 32

/-- The offset is one of UM_VW_REC or UM_VW_MAP. -/
def isVwData (off : BitVec 12) : Bool :=
  off.toNat % 4 == 0 && ((decide (0x100 ≤ off.toNat) && decide (off.toNat < 0x140)) || (decide (0x200 ≤ off.toNat) && decide (off.toNat < 0x400)))

/-- A write to UM_VW_REC or UM_VW_MAP. -/
def vwDataWrite (off : BitVec 12) (v : Word) (s : State) : State :=
  stateWrite s 7 off s.running fun s =>
    match s.vint.window with
    | none => vwNotOpen s off
    | some w =>
      let w :=
        if off.toNat < 0x200 then { w with record := vPut w.record (BitVec.ofNat 4 ((off.toNat - 0x100) / 4)) v }
        else { w with map := mapPutWord w.map ((off.toNat - 0x200) / 4) v }
      { s with vint := { s.vint with window := some w } }

/-- VW_DATA_WRITE: a write to UM_VW_REC or UM_VW_MAP (R111). -/
def execVwDataWrite (off : BitVec 12) (v : Word) (s : State) : Out :=
  regWrite s fun s => if isVwData off then vwDataWrite off v s else s

/-! ### Transfers (R112) -/

/-- The operation of UM_VW_XCMD.op. -/
def XferOp.ofCode (c : BitVec 2) : XferOp :=
  match c.toNat with
  | 0 => .saveSlots | 1 => .restoreSlots | 2 => .saveMaps | _ => .restoreMaps

/-- The operation moves bitmaps. -/
def XferOp.isMap : XferOp → Bool
  | .saveMaps | .restoreMaps => true
  | _ => false

/-- Bytes of one record or bitmap in a save area. -/
def XferOp.size (op : XferOp) : Nat := if op.isMap then 512 else 64

/-- The start of a transfer, with the refusals of R112 in the order of its table's rows (log 70). -/
def xferStart (s : State) : State :=
  let v := s.vint
  let op := XferOp.ofCode v.xop
  let first := v.xfirst.toNat
  let count := v.xcountM1.toNat + 1
  let base := v.xbase.toNat
  let slots := if op.isMap then firstBusy s (16 * first) (16 * count) else firstBusy s first count
  if (if op.isMap then 64 else 1024) < first + count then logEvent s 7 0x97 stBadField 0
  else if base % 64 ≠ 0 then logEvent s 7 0x97 stBadField 0
  else if scratchSize < base + op.size * count then logEvent s 7 0x97 stBadRange 0
  else
    match slots with
    | some k => logEvent s 7 0x92 stIllegal (BitVec.ofNat 20 k)
    | none =>
      if v.xfer.isSome then logEvent s 7 0x94 stIllegal 0
      else { s with vint := { v with xfer := some ⟨op, first, count, base⟩ } }

/-- A write of UM_VW_XCMD: first, count_m1 and op are stored, then go acts (R248). -/
def xcmdWrite (v : Word) (s : State) : State :=
  stateWrite s 7 0x04C s.running fun s =>
    let s := { s with vint := { s.vint with xfirst := v.extractLsb' 0 10, xcountM1 := v.extractLsb' 10 10, xop := v.extractLsb' 20 2 } }
    if v.getLsbD 31 then xferStart s else s

/-- The written word with an operation and go. -/
def xcmdWord (v : Word) (op : Nat) : Word := (v &&& 0x000FFFFF#32) ||| BitVec.ofNat 32 (0x80000000 + op * 2 ^ 20)

/-- SAVE_SLOTS. -/
def execSaveSlots (v : Word) (s : State) : Out := regWrite s (xcmdWrite (xcmdWord v 0))

/-- RESTORE_SLOTS. -/
def execRestoreSlots (v : Word) (s : State) : Out := regWrite s (xcmdWrite (xcmdWord v 1))

/-- SAVE_MAPS. -/
def execSaveMaps (v : Word) (s : State) : Out := regWrite s (xcmdWrite (xcmdWord v 2))

/-- RESTORE_MAPS. -/
def execRestoreMaps (v : Word) (s : State) : Out := regWrite s (xcmdWrite (xcmdWord v 3))

/-- The words a save writes for record or group k. -/
def saveWords (v : Vintage) (op : XferOp) (k : Nat) : List Word :=
  if op.isMap then (List.range 128).map (mapWord (vAt v.maps (BitVec.ofNat 6 k)))
  else (v.slot k).toList

/-- Every word a save writes. -/
def saveAll (v : Vintage) (x : Xfer) : List Word := ((List.range x.count).map fun i => saveWords v x.op (x.first + i)).flatten

/-- The little-endian bytes of words. -/
def wordBytes (ws : List Word) : List Byte :=
  (ws.map fun w => [w.extractLsb' 0 8, w.extractLsb' 8 8, w.extractLsb' 16 8, w.extractLsb' 24 8]).flatten

/-- The slot record that a restore reads. -/
def readRecord (m : List Host.Cell) (a : Nat) : SlotRec := Vector.ofFn fun i => memWord m (a + 4 * i.val)

/-- The poisoned segments of an interval of whole segments. -/
def poisonedSegs (s : State) (a n : Nat) : List Nat := ((List.range (n / 64)).map (a / 64 + ·)).filter s.poison.contains

/-- One record or bitmap restored; none when it fails and the transfer stops (R111, R19). The first slot of a group stands for a
bitmap in the log (log 33). -/
def restoreOne (s : State) (x : Xfer) (i : Nat) : Except State State :=
  let a := x.base + x.op.size * i
  let k := x.first + i
  let slot := if x.op.isMap then 16 * k else k
  let bad := poisonedSegs s a x.op.size
  if bad ≠ [] then .error (logEvent (bad.foldl notePoison s) 7 0x96 stBadField (BitVec.ofNat 20 slot))
  else if x.op.isMap then
    .ok { s with vint := { s.vint with maps := vPut s.vint.maps (BitVec.ofNat 6 k) (BitVec.ofNat 4096 (memNat s.mem a 512)) } }
  else
    let r := readRecord s.mem a
    if recordOk r then .ok { s with vint := { s.vint with slots := vPut s.vint.slots (BitVec.ofNat 10 k) r } }
    else .error (logEvent s 7 0x96 stBadField (BitVec.ofNat 20 slot))

/-- The records of a restore from i on, n of them, until one fails. -/
def restoreMany (s : State) (x : Xfer) (i : Nat) : Nat → State
  | 0 => s
  | n + 1 =>
    match restoreOne s x i with
    | .ok s => restoreMany s x (i + 1) n
    | .error s => s

/-- The states in which a transfer or save goes on: the running ones, and a requested BIST, whose tests wait for it (R181, R233). -/
def State.transfers (s : State) : Bool := s.running || (s.unit == .bist && s.test.requested)

/-- TRANSFER_COMPLETE: the running transfer ends (R112); a save waits while the twin link stops the write port (R27). -/
def execTransferComplete (s : State) : Out :=
  match s.vint.xfer with
  | none => .next s
  | some x =>
    if !s.transfers || (x.op.isSave && twinFull s) then .next s
    else if scratchSize < x.base + x.op.size * x.count then .fault .outsideScratchpad
    else
      let s := if x.op.isSave then { s with mem := memPutWords s.mem x.base (saveAll s.vint x) } else restoreMany s x 0 x.count
      .next { s with vint := { s.vint with xfer := none } }

/-- A transfer that FAULT stops: an unspecified part of a save is written, an unspecified number of records is restored; busy
stays 1 (R205). -/
def stopTransfer (s : State) : State :=
  match s.vint.xfer with
  | none => s
  | some x =>
    if x.op.isSave then
      let b := (wordBytes (saveAll s.vint x)).take (scratchSize - x.base)
      { s with mem := memMix s.mem s.free x.base b, free := s.free + b.length }
    else restoreMany { s with free := s.free + 1 } x 0 (Config.freeNat s.free % (x.count + 1))

end Sys2Proof.Machine
end

