-- ==== Sys2Proof/Machine/Tasting.lean ====
section
/-! DEFINITION. Tasting records and the commands of page 14 (R118, R119). -/

namespace Sys2Proof.Machine

/-- The largest values of the fields of Table 6-6. -/
def max16 : Nat := 0xFFFF
def max64 : Nat := 0xFFFFFFFFFFFFFFFF

/-- An itinerary's record merged into a guest's or a slot's: counts and sums add and saturate, maxima take the larger (R118). -/
def Taste.merge (a b : Taste) : Taste :=
  { tiles := min (a.tiles + b.tiles) max32, nCmp := min (a.nCmp + b.nCmp) max32,
    nZeroed := min (a.nZeroed + b.nZeroed) max16, nClipped := min (a.nClipped + b.nClipped) max16,
    convMax := max a.convMax b.convMax, convSum := min (a.convSum + b.convSum) max64,
    fnMax := max a.fnMax b.fnMax, fnNan := min (a.fnNan + b.fnNan) max32, fnSum := min (a.fnSum + b.fnSum) max64 }

/-- The 16 words of a record (Table 6-6). -/
def Taste.words (t : Taste) : List Word :=
  let w := BitVec.ofNat 32
  [w t.tiles, w t.nCmp, w (t.nZeroed % 2 ^ 16 + 2 ^ 16 * t.nClipped), w t.convMax, w t.convSum, w (t.convSum / 2 ^ 32), w t.fnMax,
   w t.fnNan, w t.fnSum, w (t.fnSum / 2 ^ 32), 0, 0, 0, 0, 0, 0]

/-- The record that UM_TS_SEL selects; none for a guest above 63 (Table 6-7). -/
def selectedTaste (t : Tasting) : Option Taste :=
  if t.selKind then (if t.selIndex.toNat < 64 then some (vAt t.guests (t.selIndex.extractLsb' 0 6)) else none)
  else some (vAt t.slots t.selIndex)

/-- clear: the selected record is zeroed. -/
def tsClear (s : State) : State :=
  let t := s.tasting
  if t.selKind then
    if t.selIndex.toNat < 64 then { s with tasting := { t with guests := vPut t.guests (t.selIndex.extractLsb' 0 6) .zero } } else s
  else { s with tasting := { t with slots := vPut t.slots t.selIndex .zero } }

/-- clear_all: all 1,088 records. -/
def tsClearAll (s : State) : State := { s with tasting := { s.tasting with guests := vAll 6 .zero, slots := vAll 10 .zero } }

/-- Bytes of a tasting save (R119). -/
def tasteSaveSize : Nat := 69632

/-- save: a snapshot of every record is taken, unless R119 refuses it: XFER_RANGE, then VW_BUSY (order: log 71). -/
def tsSave (s : State) : State :=
  let b := s.tasting.saveBase.toNat
  if b % 64 ≠ 0 ∨ scratchSize < b + tasteSaveSize then logEvent s 14 0x97 stBadRange 0
  else if s.tasting.save.isSome then logEvent s 14 0x94 stIllegal 0
  else { s with tasting := { s.tasting with save := some (b, s.tasting.guests, s.tasting.slots) } }

/-- A write of UM_TS_CMD. -/
def tsCmdWrite (v : Word) (s : State) : State :=
  cmdWrite s 14 0x050 v [0, 1, 2] s.running fun s =>
    if v.getLsbD 0 then tsClear s else if v.getLsbD 1 then tsClearAll s else if v.getLsbD 2 then tsSave s else s

/-- TS_CLEAR: UM_TS_CMD.clear. -/
def execTsClear (v : Word) (s : State) : Out := regWrite s (tsCmdWrite (v ||| 1#32))

/-- TS_CLEAR_ALL: UM_TS_CMD.clear_all. -/
def execTsClearAll (v : Word) (s : State) : Out := regWrite s (tsCmdWrite (v ||| 2#32))

/-- TS_SAVE: UM_TS_CMD.save. -/
def execTsSave (v : Word) (s : State) : Out := regWrite s (tsCmdWrite (v ||| 4#32))

/-- The words of a save: 64 guest records, then 1,024 slot records. -/
def tasteSaveWords (g : Vector Taste (2 ^ 6)) (l : Vector Taste (2 ^ 10)) : List Word :=
  (g.toList.map Taste.words).flatten ++ (l.toList.map Taste.words).flatten

/-- TS_SAVE_COMPLETE: the running save ends, every write accepted; it waits while the twin link stops the write port (R27). -/
def execTsSaveComplete (s : State) : Out :=
  match s.tasting.save with
  | none => .next s
  | some (b, g, l) =>
    if !s.transfers || twinFull s then .next s
    else if scratchSize < b + tasteSaveSize then .fault .outsideScratchpad
    else .next { s with mem := memPutWords s.mem b (tasteSaveWords g l), tasting := { s.tasting with save := none } }

/-- A tasting save that FAULT stops: an unspecified part of it is written; busy stays 1 (R205). -/
def stopTasteSave (s : State) : State :=
  match s.tasting.save with
  | none => s
  | some (b, g, l) =>
    let d := (wordBytes (tasteSaveWords g l)).take (scratchSize - b)
    { s with mem := memMix s.mem s.free b d, free := s.free + d.length }

end Sys2Proof.Machine
end

