-- ==== Sys2Proof/Machine/Power.lean ====
section
/-! DEFINITION. The power-manager port, pace, sprint, temperature and the oscillator tick (R24, R209-R222, R228). -/

namespace Sys2Proof.Machine

/-! ### VTARGET and the canary thresholds (R24, R210, R227, R232) -/

/-- E of R227. -/
def expectOf (mcal : BitVec 8) (c cCal : BitVec 6) (guard : BitVec 4) : BitVec 8 :=
  BitVec.ofInt 8 (max 0 (min 255 (mcal.toNat + Config.canaryD c - Config.canaryD cCal + 10 * guard.toNat)))

/-- The thresholds of every engine set for the code in force, once the canaries have been measured (R176, R227). -/
def setThresholds (s : State) : State :=
  if s.cellar.loaded then
    { s with health := { s.health with can := s.health.can.map fun k =>
        { k with expect := expectOf k.mcal s.power.model s.power.cCal s.test.guard } } }
  else s

/-- The code is acknowledged with its own code (R24, R210, R232). -/
def ownCode (s : State) (c : BitVec 6) : Bool :=
  decide (7 ≤ c.toNat) && decide (c.toNat ≤ 0x2D) &&
  (decide (c.toNat ≤ 0x19) || (s.test.vreqEn && c == s.test.vreqCode) || (s.power.granted && !s.power.clamped))

/-- A VACK message sent. -/
def sendVack (s : State) (c : BitVec 6) : State := { s with pmOut := s.pmOut ++ [.vack c] }

/-- The answer to a VTARGET: its own code, 0x3E for a refused sprint code, 0x3F for a code out of range. -/
def ackVtarget (s : State) (c : BitVec 6) : State :=
  if ownCode s c then sendVack (setThresholds { s with power := { s.power with vack := c, model := c, lapsed := false } }) c
  else if c.toNat < 7 ∨ 0x2D < c.toNat then sendVack s 0x3F
  else sendVack s 0x3E

/-- VTARGET: answered, or held in RESET and CALIBRATE (R176). -/
def execVtarget (code : BitVec 6) (s : State) : Out :=
  match s.unit with
  | .off => .next s
  | .reset | .calibrate => .next { s with power := { s.power with heldV := some code } }
  | _ => .next (ackVtarget s code)

/-- A held VTARGET answered at the end of CALIBRATE (R176). -/
def ackHeld (s : State) : State :=
  match s.power.heldV with
  | none => s
  | some c => ackVtarget { s with power := { s.power with heldV := none } } c

/-! ### Pace (R212, R213) -/

/-- PACE: the latest value, taken by the next window. -/
def execPace (v : BitVec 16) (s : State) : Out :=
  .next (if s.unit == .off then s else { s with power := { s.power with mgr := v } })

/-- A new pace window: PACE and cap values are taken, paces whose cause has ended are released, beat counts restart (R212, R213). -/
def startWindow (s : State) : State :=
  let p := s.power
  let p := { p with winMgr := p.mgr, winCap := p.cap, rvkPace := p.rvkCause, protoPace := p.protoCause,
                    guardPace := p.guardOn, windowTicks := 0 }
  setEff { s with power := p, engines := s.engines.map fun x => { x with issued := 0 } }

/-- CALIBRATE has ended: windows, samples and estimates run (R212, R221). -/
def State.calibrated (s : State) : Bool :=
  match s.unit with
  | .off | .reset | .calibrate => false
  | _ => true

/-- PACE_WINDOW: after 4,096 ticks a new window begins. -/
def execPaceWindow (s : State) : Out :=
  .next (if s.calibrated && decide (4096 ≤ s.power.windowTicks) then startWindow s else s)

/-- A write of UM_PW_PACECAP. -/
def pacecapPort (v : Word) (s : State) : State :=
  stateWrite s 10 0x054 s.rwOpen fun s => { s with power := { s.power with cap := v.extractLsb' 0 16 } }

/-- PACECAP_WRITE (R213). -/
def execPacecapWrite (v : Word) (s : State) : Out := regWrite s (pacecapPort v)

/-! ### Sprint (R214-R219) -/

/-- SPRINT_GRANT (R215). -/
def execSprintGrant (s : State) : Out :=
  if s.unit == .off then .next s
  else if s.power.sprintReq && !s.power.granted then
    let s := setCause { s with power := { s.power with granted := true } } 10 0
    .next (traceBase s 4 0x20 0 (s.power.vack.zeroExtend 32))
  else .next (protocolEvent s)

/-- SPRINT_REVOKE (R216). -/
def execSprintRevoke (s : State) : Out :=
  if s.power.granted && s.unit != .off then
    let s := endGrant s 1
    let s := { s with power := { s.power with rvkPace := true, rvkCause := s.power.vsprint, revCnt := satAdd s.power.revCnt 1,
                                              holdoff := true, holdTicks := 0 } }
    .next (setEff (updReq s))
  else .next s

/-- HOLDOFF_END: after 2^22 ticks the hold-off ends (R216). -/
def execHoldoffEnd (s : State) : Out :=
  .next (if s.power.holdoff && decide (2 ^ 22 ≤ s.power.holdTicks) then updReq { s with power := { s.power with holdoff := false } } else s)

/-- SPRINT_IDLE_TIMEOUT: nothing in execution for 4,096 ticks (R214). -/
def execSprintIdleTimeout (s : State) : Out :=
  .next (if s.power.recent && s.inExec == 0 && decide (4096 ≤ s.power.idleTicks) then
    updReq { s with power := { s.power with recent := false } } else s)

/-- A write of UM_PW_SPRUSED: in IDLE only (R219). -/
def sprusedPort (v : Word) (s : State) : State :=
  stateWrite s 10 0x064 (s.unit == .idle) fun s => judgeClamp { s with power := { s.power with sprUsed := v, accountOk := true } }

/-- SPRUSED_WRITE (R219). -/
def execSprusedWrite (v : Word) (s : State) : Out := regWrite s (sprusedPort v)

/-- The smaller of a written value and a bound. -/
def capAt (v bound : Word) : Word := if bound.toNat < v.toNat then bound else v

/-- A write of UM_PW_SPRLIM: in IDLE only, at most 0x00A4_CB80 (R219). -/
def sprlimPort (v : Word) (s : State) : State :=
  stateWrite s 10 0x068 (s.unit == .idle) fun s => judgeClamp { s with power := { s.power with sprLim := capAt v 0x00A4CB80#32 } }

/-- SPRLIM_WRITE (R219). -/
def execSprlimWrite (v : Word) (s : State) : Out := regWrite s (sprlimPort v)

/-- Temperature factor of Tables 13-3 and 14-1: readings of 85, 95 and 105 °C are codes 500, 540 and 580. -/
def tempWeight (tj : BitVec 10) : Nat :=
  if tj.toNat ≤ 500 then 1 else if tj.toNat ≤ 540 then 2 else if tj.toNat ≤ 580 then 4 else 8

/-- ticks_per_second of R217. -/
def ticksPerSecond (s : State) : Nat := s.power.osc.toNat * 2000000000 / 2 ^ 20

/-- Whole units carried out of an accumulator; before the first count there is no unit to carry (log 30). -/
def carry (acc unit : Nat) : Nat × Nat := if unit = 0 then (0, acc) else (acc / unit, acc % unit)

/-- SPRINT_TICK: an oscillator tick in the sprint region (R217, R218). -/
def execSprintTick (s : State) : Out :=
  if s.unit == .off || !s.power.vsprint then .next s
  else
    let p := s.power
    let (n, rest) := carry (p.sprAcc.toNat + tempWeight p.tj) (ticksPerSecond s)
    .next (judgeClamp { s with power := { p with sprAcc := BitVec.ofNat 64 rest, sprUsed := satAdd p.sprUsed n } })

/-! ### Readings of the supply monitor (R25, R174, R209, R211) -/

/-- A reading of VDD_U. In RESET the initialisation runs while RESET_N is 1 and VDD_U at or above 0.57 V, and falls when either hold
returns (R174). -/
def readSupply (s : State) (mv : BitVec 10) : State :=
  { s with vddMv := mv, initRun := if s.unit == .reset then s.resetN && decide (570 ≤ mv.toNat) else s.initRun }

/-- The latest acknowledged code does not cover the sprint region: it is 0x19 or below, or that of a margin session that has ended (R211,
R232, log 89). -/
def uncovered (s : State) : Bool := decide (s.power.vack.toNat ≤ 0x19) || (s.power.lapsed && !s.test.vreqEn)

/-- The sprint region of a reading: entering it without an acknowledged code for it is a protocol event with its pace; leaving it ends the
causes of the revoke and protocol paces (R209, R211, R216). -/
def classSupply (s : State) (mv : BitVec 10) : State :=
  let now := decide (755 < mv.toNat)
  if now == s.power.vsprint then s
  else
    let s := { s with power := { s.power with vsprint := now } }
    if now && uncovered s then enterUnlicensed s
    else { s with power := { s.power with rvkCause := s.power.rvkCause && now, protoCause := s.power.protoCause && now } }

/-- VSPRINT_CHANGE: the supply monitor reads VDD_U in or out of the sprint region (R209, R211). -/
def execVsprintChange (mv : BitVec 10) (s : State) : Out :=
  let s := readSupply s mv
  .next (if s.unit == .off then s else classSupply s mv)

/-! ### Temperature and current (R220, R221) -/

/-- TEMP_SAMPLE: every 1,024 ticks (R220). Bit 1 of the event's word 3 is the guard condition, which the pace may outlast (R255, log 107). -/
def execTempSample (tj : BitVec 10) (s : State) : Out :=
  if s.unit == .off || decide (s.power.sampleT < 1024) then .next s
  else
    let p := s.power
    let temp := decide (p.tj.toNat < p.tthr.toNat) && decide (p.tthr.toNat ≤ tj.toNat)
    let guard := !p.guardOn && decide (600 ≤ tj.toNat)
    let release := p.guardOn && decide (tj.toNat < 580)
    let s := { s with power := { p with tj := tj, hot := decide (p.tthr.toNat ≤ tj.toNat), guardOn := (p.guardOn || guard) && !release,
                                        guardPace := p.guardPace || guard, sampleT := 0 } }
    let s := if temp then setCause s 10 3 else s
    let s := if guard then setCause s 10 4 else s
    let s := if temp || guard || release then
      traceBase s 4 0x23 (tj.zeroExtend 32) (bit1 s.power.hot ||| (bit1 s.power.guardOn <<< 1)) else s
    .next (setEff s)

/-- The code of an estimate in microamperes: steps of 0.25 A, rounded to nearest, saturated at 0xFF (R221). Of two codes equally near a free
choice takes one (log 99). -/
def iestCode (estimate : Word) (draw : Nat) : BitVec 8 :=
  let q := estimate.toNat / 250000
  let r := estimate.toNat % 250000
  let up := if r = 125000 then Config.freeNat draw % 2 else if 125000 < r then 1 else 0
  BitVec.ofNat 8 (min (q + up) 0xFF)

/-- IEST: every 1,024 ticks from the end of CALIBRATE the unit sends its estimate of the mean current (R221). -/
def execIest (estimate : Word) (s : State) : Out :=
  .next (if s.calibrated && decide (1024 ≤ s.power.sampleI) then
    let code := iestCode estimate s.free
    { s with power := { s.power with iest := code, sampleI := 0 }, pmOut := s.pmOut ++ [.iest code], free := s.free + 1 } else s)

/-! ### Supply (R25) -/

/-- RETENTION_ENTRY: VDD_U below 0.57 V (Table 1-7). -/
def execRetentionEntry (mv : BitVec 10) (s : State) : Out :=
  if s.unit == .off || s.retention || decide (570 ≤ mv.toNat) || decide (mv.toNat < 500) then .next s
  else
    let s := setCause { readSupply s mv with retention := true } 10 6
    .next (traceBase s 4 0x22 1 0)

/-! ### The oscillator tick -/

/-- fv of Table 14-1. -/
def voltWeight (mv : BitVec 10) : Nat :=
  if mv.toNat < 570 then 1 else if mv.toNat ≤ 650 then 2 else if mv.toNat ≤ 755 then 4 else if mv.toNat ≤ 850 then 8 else 12

/-- The ledger's part of a tick (R228). -/
def ledgerTick (s : State) (mv : BitVec 10) : State :=
  let w := voltWeight mv * tempWeight s.power.tj
  let h := s.health
  let (n, rest) := carry (h.acc.toNat + w) (4 * ticksPerSecond s)
  { s with health := { h with acc := BitVec.ofNat 64 rest, used := satAdd h.used n, quarters := h.quarters + w } }

/-- A context's progress count at a tick (R198): it holds at 0 without a limit, and counts in RUN and DRAIN. -/
def progressTick (s : State) (c : Ctx) : Ctx :=
  if (s.guest c.guest).limitUs == 0 then { c with progress := 0 }
  else if s.unit == .run || s.unit == .drain then { c with progress := c.progress + 1 }
  else c

/-- The timers' part of a tick (log 7). -/
def timerTick (s : State) : State :=
  let p := s.power
  let p := { p with windowTicks := if s.calibrated then p.windowTicks + 1 else 0,
                    holdTicks := if p.holdoff then p.holdTicks + 1 else 0,
                    idleTicks := if s.inExec == 0 then p.idleTicks + 1 else 0,
                    sampleT := p.sampleT + 1, sampleC := p.sampleC + 1, sampleI := p.sampleI + 1 }
  { s with power := p,
           upTicks := if s.unit == .calibrate || s.unit == .bist then s.upTicks + 1 else 0,
           health := { s.health with estTicks := s.health.estTicks + 1 },
           trace := { s.trace with ticks := if s.unit == .reset then s.trace.ticks else s.trace.ticks + 1 },
           ctx0 := s.ctx0.map (progressTick s), ctx1 := s.ctx1.map (progressTick s) }

/-- LEDGER_TICK: one oscillator tick outside OFF, with the reading of the supply monitor (R228; it carries the other timers, log 7). -/
def execLedgerTick (mv : BitVec 10) (s : State) : Out :=
  .next (if s.unit == .off then s else timerTick (ledgerTick (readSupply s mv) mv))

end Sys2Proof.Machine
end

