-- ==== Sys2Proof/Machine/Unit.lean ====
section
/-! DEFINITION. Unit states: UM_GCTRL, reset, start-up, supply and FAULT (R25, R173-R182, R205, R230, R233). -/

namespace Sys2Proof.Machine

/-! ### FAULT (R205) -/

/-- The output areas of the itinerary of a context. -/
def ctxAreas (c : Option Ctx) : List Area := match c with | some c => outAreas c.it | none => []

/-- Entry to FAULT: the write FIFO is issued, the outputs of itineraries in execution become unspecified, a transfer or save
stops, and nothing posts. -/
def enterFault (s : State) (cause : BitVec 8) : State :=
  let s := issueAll { s with wfifo := [] } s.wfifo
  let s := scrambleAreas s (ctxAreas s.ctx0 ++ ctxAreas s.ctx1)
  let s := dropStep (stopTasteSave (stopTransfer s))
  updReq (setUnit { s with faultCause := cause } .fault)

/-! ### UM_GCTRL (Tables 11-4 and 11-6) -/

/-- run: from IDLE or DRAIN, but not in a voltage-margin session (R178, R232). -/
def cmdRun (s : State) : State :=
  if (s.unit == .idle || s.unit == .drain) && !s.test.vreqEn then updReq (setUnit s .run) else refuseState s 0 0x040

/-- DRAIN passes to IDLE when no itinerary is in execution (R178). -/
def drainToIdle (s : State) : State := if s.unit == .drain && s.inExec == 0 then updReq (setUnit s .idle) else s

/-- stop: from RUN or HOLD to DRAIN, and to IDLE at once if nothing is in execution; a step ends (R178, R257). -/
def cmdStop (s : State) : State :=
  if s.unit == .run || s.unit == .hold then drainToIdle (updReq (setUnit (dropStep s) .drain)) else refuseState s 0 0x040

/-- The change to HOLD (R181). -/
def toHold (s : State) : State := updReq (setUnit s .hold)

/-- hold: from RUN. -/
def cmdHold (s : State) : State := if s.unit == .run then toHold s else refuseState s 0 0x040

/-- resume: from HOLD to RUN; a step ends (R181, R257). -/
def cmdResume (s : State) : State :=
  if s.unit == .hold then updReq (setUnit (dropStep s) .run) else refuseState s 0 0x040

/-- The boot BIST or a requested one begins (R177, R233). -/
def enterBist (s : State) (requested : Bool) : State :=
  setUnit { s with upTicks := 0, test := { s.test with requested := requested, vintErr := none } } .bist

/-- bist: from IDLE (R233). -/
def cmdBist (s : State) : State :=
  if s.unit == .idle then enterBist s true else refuseState s 0 0x040

/-- Entry to RESET (R174): every field to its reset value but those R230 keeps; scratchpad, the supply and the port's level are not the unit's.
A running transfer or save has written none of its area (log 93), and SPRINT_OFF stays 0 where a grant ends (log 95). A VTARGET held in RESET
or CALIBRATE stays held. The initialisation starts unless RESET_N or VDD_U holds it. -/
def enterReset (s : State) (cause : BitVec 2) : State :=
  { State.reset with
    unit := .reset, resetCause := cause, retention := s.retention, resetN := s.resetN, vddMv := s.vddMv,
    initRun := s.resetN && decide (570 ≤ s.vddMv.toNat),
    mem := s.mem, poison := s.poison, merged := s.merged, rdata := s.rdata, rdataLow := s.rdataLow, pmOut := s.pmOut, twinOut := s.twinOut, free := s.free, pending := s.pending,
    power := { Power.reset with vsprint := s.power.vsprint, heldV := s.power.heldV },
    health := if cause == 0 then .reset
              else { Health.reset with used := s.health.used, life := s.health.life, ledgerOk := s.health.ledgerOk } }

/-- reset: legal in every state other than OFF, with its key (Table 11-6). -/
def cmdReset (v : Word) (s : State) : State :=
  if bitsOf v 16 8 == 0xC3#32 then enterReset s 2 else logEvent s 0 0x83 stBadField 0

/-- A write of UM_GCTRL. -/
def gctrlWrite (v : Word) (s : State) : State :=
  cmdWrite s 0 0x040 v [0, 1, 2, 3, 4, 31] true fun s =>
    if v.getLsbD 0 then cmdRun s else if v.getLsbD 1 then cmdStop s else if v.getLsbD 2 then cmdHold s
    else if v.getLsbD 3 then cmdResume s else if v.getLsbD 4 then cmdBist s else if v.getLsbD 31 then cmdReset v s else s

/-- RUN. -/
def execRun (v : Word) (s : State) : Out := regWrite s (gctrlWrite (v ||| 1#32))

/-- STOP. -/
def execStop (v : Word) (s : State) : Out := regWrite s (gctrlWrite (v ||| 2#32))

/-- HOLD. -/
def execHold (v : Word) (s : State) : Out := regWrite s (gctrlWrite (v ||| 4#32))

/-- RESUME. -/
def execResume (v : Word) (s : State) : Out := regWrite s (gctrlWrite (v ||| 8#32))

/-- BIST. -/
def execBist (v : Word) (s : State) : Out := regWrite s (gctrlWrite (v ||| 16#32))

/-- SOFTWARE_RESET. -/
def execSoftwareReset (v : Word) (s : State) : Out := regWrite s (gctrlWrite (v ||| 0x80000000#32))

/-! ### Reset and supply -/

/-- RESET_N falls to 0 and holds the instance in RESET (R174); where it already holds it, nothing falls. -/
def execResetN (s : State) : Out :=
  .next (if s.unit == .off || (s.unit == .reset && !s.resetN) then s else enterReset { s with resetN := false } 1)

/-- RESET_RELEASE: RESET_N returns to 1, with the reading of VDD_U; in RESET the initialisation starts at 0.57 V or more (R174). -/
def execResetRelease (mv : BitVec 10) (s : State) : Out :=
  .next (if s.unit == .off then s else readSupply { s with resetN := true } mv)

/-- POWER_UP: VDD_U rises through 0.50 V (R174); a reading in the sprint region is judged as any other, and no code has been
acknowledged (R211). RESET_N counts as 0 until a RESET_RELEASE (log 85). -/
def execPowerUp (mv : BitVec 10) (s : State) : Out :=
  .next (if s.unit == .off && decide (500 ≤ mv.toNat) then
    classSupply (enterReset { s with vddMv := mv, resetN := false, power := { s.power with vsprint := false } } 0) mv else s)

/-- BROWN_OUT: below 0.50 V all state is lost and the instance is OFF (R25). -/
def execBrownOut (mv : BitVec 10) (s : State) : Out :=
  .next (if s.unit == .off || decide (500 ≤ mv.toNat) then s
    else { State.reset with unit := .off, vddMv := mv, mem := s.mem, poison := s.poison, merged := s.merged, rdata := s.rdata,
                            rdataLow := s.rdataLow, pmOut := s.pmOut, twinOut := s.twinOut, free := s.free, pending := s.pending })

/-- RETENTION_EXIT: VDD_U reaches 0.58 V and beats resume (Table 1-7). -/
def execRetentionExit (mv : BitVec 10) (s : State) : Out :=
  .next (if s.retention && decide (580 ≤ mv.toNat) then traceBase { readSupply s mv with retention := false } 4 0x22 0 0 else s)

/-! ### Start-up (R174-R177) -/

/-- INIT_DONE: the initialisation ends and the instance enters CALIBRATE; UM_TR_TICKS starts at 0 (R252). -/
def execInitDone (s : State) : Out :=
  .next (if s.unit == .reset && s.initRun then
    setUnit { s with initRun := false, oscDone := false, trace := { s.trace with ticks := 0 } } .calibrate else s)

/-- nombeats of R212; a quotient that 16 bits cannot hold is a free value (log 31). -/
def nomBeats (osc : BitVec 24) (draw : Nat) : BitVec 16 :=
  let q := 4096 * 2 ^ 20 / osc.toNat
  BitVec.ofNat 16 (if osc == 0 ∨ 2 ^ 16 ≤ q then Config.freeNat draw else q)

/-- The range of R176. -/
def oscOk (osc : BitVec 24) : Bool := decide (0x26666 ≤ osc.toNat) && decide (osc.toNat ≤ 0x40000)

/-- The code nearest to VDD_U (R176). -/
def nearestCode (mv : BitVec 10) : BitVec 6 := BitVec.ofNat 6 ((mv.toNat - 500 + 5) / 10)

/-- OSC_COUNT_DONE: step 1 of CALIBRATE ends with its count, and step 3 starts at the present VDD_U (R175, R176). Under CAL_OSC no table
is loaded and UM_CT_GEN stays 0 (log 86). -/
def execOscCountDone (count : BitVec 24) (mv : BitVec 10) (s : State) : Out :=
  if s.unit != .calibrate || s.oscDone then .next s
  else
    let p := { s.power with osc := count, nombeats := nomBeats count s.free }
    let s := { s with vddMv := mv, free := s.free + 1, power := p }
    if oscOk count then
      .next { s with oscDone := true, upTicks := 0, power := { p with cCal := nearestCode mv, model := nearestCode mv } }
    else .next (ackHeld (startWindow (enterFault s 0x01)))

/-- Step 2 loads bank A from the ROM; DQ8, DQ4 and the user slots stay empty (R175, R187). -/
def loadTables (s : State) : State :=
  { s with cellar := { Cellar.reset with loaded := true, gen := 1, selTable := s.cellar.selTable, selWindow := s.cellar.selWindow,
                                         selView := s.cellar.selView } }

/-- m_cal of the engines (R227). -/
def setMcal (s : State) (mcal : BitVec 128) : State :=
  { s with health := { s.health with can := s.health.can.mapIdx fun e k =>
      { k with mcal := mcal.extractLsb' (8 * e) 8, belowT := false } } }

/-- Some engine shows no margin: a reading below 16 (R227). -/
def noMargin (mcal : BitVec 128) : Bool := (List.range 16).any fun e => decide ((mcal.extractLsb' (8 * e) 8).toNat < 16)

/-- CALIBRATE_END: when step 3 has measured for its 65,536 ticks, canaries and checksum are judged, the windows begin, and a held VTARGET is
answered (R175, R176). -/
def execCalibrateEnd (romOk : Bool) (mcal : BitVec 128) (s : State) : Out :=
  if s.unit != .calibrate || !s.oscDone || decide (s.upTicks < 65536) then .next s
  else
    let s := setThresholds (setMcal (loadTables s) mcal)
    let s :=
      if noMargin mcal then enterFault s 0x02
      else if !romOk then enterFault s 0x03
      else enterBist s false
    .next (ackHeld (startWindow s))

/-- The sweep steps recorded: engines whose EDGE was 0 take the reading, within the depth of the sweep (R233). -/
def sweepEdges (old edges : BitVec 64) (depth : BitVec 4) : BitVec 64 :=
  (List.range 16).foldl (fun acc e =>
    let o := old.extractLsb' (4 * e) 4
    let n := edges.extractLsb' (4 * e) 4
    let v := if o != 0 then o else if n.toNat ≤ depth.toNat then n else 0
    acc ||| (v.zeroExtend 64 <<< (4 * e))) 0

/-- The tests of the BIST in progress (R233). -/
def bistTests (s : State) : BitVec 8 := if s.test.requested then s.test.biSel else 0xFF

/-- The tests reported as failed, with VINT where it met an uncorrectable error (R233). -/
def bistFailed (s : State) (failed : BitVec 8) : BitVec 8 := if s.test.vintErr.isSome then failed ||| 0x20#8 else failed

/-- UM_BI_INFO of a BIST: the report of its first failing test; where that is VINT's uncorrectable error alone, VINT with the word of the
error (R233, log 58). -/
def bistInfo (s : State) (failed : BitVec 8) (info : Word) : Word :=
  if bistFailed s failed &&& bistTests s = 0 then 0
  else
    match s.test.vintErr with
    | some w =>
      if bistTests s &&& 0x20#8 ≠ 0 ∧ failed &&& bistTests s &&& 0x3F#8 = 0 then (w.zeroExtend 32 <<< 12) ||| (info &&& 0xF00#32) ||| 5#32
      else info &&& 0xFFFFFF07#32
    | none => info &&& 0xFFFFFF07#32

/-- The duration of a BIST: 2^19 ticks for the boot BIST, and what a requested one reports (R177, R233). -/
def bistTicks (s : State) (ticks : Word) : Word := if s.test.requested then ticks else 0x80000#32

/-- The ticks of a BIST have passed, and a requested one has taken no more than its tests and its sweep may (R177, R233). -/
def bistTimely (s : State) (ticks : Word) : Bool :=
  decide ((bistTicks s ticks).toNat ≤ s.upTicks) &&
  (!s.test.requested || decide (ticks.toNat ≤ 2 ^ 19 + s.test.sweepMax.toNat * 2 ^ 16))

/-- BIST_END: the boot or requested BIST ends with its failing tests, the first failure, its duration and the sweep's steps; before its
ticks have passed it does nothing (log 7). Every selected test that did not fail is reported as passed (log 96). -/
def execBistEnd (failed : BitVec 8) (info ticks : Word) (edges : BitVec 64) (s : State) : Out :=
  if s.unit != .bist || s.vint.xfer.isSome || s.tasting.save.isSome || !bistTimely s ticks then .next s
  else
    let fail := bistFailed s failed &&& bistTests s
    let t := { s.test with biPass := bistTests s &&& ~~~(bistFailed s failed), biFail := fail, biTicks := bistTicks s ticks,
                           biInfo := bistInfo s failed info, vintErr := none }
    let s := { s with test := t }
    if fail != 0 then .next (enterFault s 0x10)
    else if t.requested then
      let swept := t.sweepMax != 0
      let edge := if swept then sweepEdges t.edge edges t.sweepMax else t.edge
      let new := edge != t.edge
      let s := setCause (setUnit { s with test := { t with edge := edge, requested := false } } .idle) 12 0
      .next (if new then setCause s 12 1 else s)
    else .next (setUnit s .idle)

/-- VINT has met an uncorrectable error; the first one is kept (R233). -/
def noteVint (s : State) (index : BitVec 20) : State :=
  { s with test := { s.test with vintErr := match s.test.vintErr with | some w => some w | none => some index } }

/-- SRAM_ERROR: a corrected error is counted; an uncorrectable one is recorded while no record is held, and enters FAULT from the
running states (R205, Table 11-2). In BIST one in the vintage, bitmap or tasting SRAM fails VINT (R233, log 58); in RESET the SRAMs hold
nothing. -/
def execSramError (uncorr : Bool) (array : BitVec 2) (index : BitVec 20) (s : State) : Out :=
  if s.unit == .off || s.unit == .reset then .next s
  else if !uncorr then .next { s with exc := { s.exc with sramCnt := satAdd s.exc.sramCnt 1 } }
  else
    let s := if s.exc.sramValid then s
      else setCause { s with exc := { s.exc with sramArray := array, sramIndex := index, sramValid := true } } 8 3
    .next (if s.running then enterFault s 0x20 else if s.unit == .bist && array == 3 then noteVint s index else s)

end Sys2Proof.Machine
end

