-- ==== Sys2Proof/Machine/Health.lean ====
section
/-! DEFINITION. Canaries, the wear ledger's registers and the life estimate, and the margin registers (R226-R232). -/

namespace Sys2Proof.Machine

/-! ### Canaries (R226, R227, R232) -/

/-- W and T of R227. -/
def warnAt (s : State) (k : Canary) : Nat := k.expect.toNat - s.health.cwarn.toNat
def tripAt (k : Canary) : Nat := max (k.expect.toNat / 2) 4

/-- One engine's sample. The thresholds exist once CALIBRATE has measured the canaries. -/
def sampleCanary (s : State) (r : BitVec 8) (k : Canary) : Canary :=
  { k with reading := r, low := if r.toNat < k.low.toNat then r else k.low,
           belowT := s.cellar.loaded && decide (r.toNat < tripAt k) }

/-- The bits of the engines that satisfy a condition. -/
def engineBits (f : Nat → Bool) : BitVec 16 :=
  (List.range 16).foldl (fun b e => if f e then b ||| (1#16 <<< e) else b) 0#16

/-- The reading of one canary from its two delays (R226). -/
def canaryMargin (bundle path : Nat) : Nat := min 255 (256 * (bundle - path) / bundle)

/-- The margin of canary k of engine e; a delay is 16 bits of its operand (log 80). -/
def marginOf (d : Delays) (e k : Nat) : Nat :=
  canaryMargin (d.bundles.extractLsb' (16 * (4 * e + k)) 16).toNat (d.paths.extractLsb' (16 * (4 * e + k)) 16).toNat

/-- An engine's reading: the smallest margin of its four canaries (R226). -/
def engineReading (d : Delays) (e : Nat) : BitVec 8 :=
  BitVec.ofNat 8 ((List.range 4).foldl (fun m k => min m (marginOf d e k)) 255)

/-- CANARY_SAMPLE: every 1,024 ticks outside OFF and RESET, the delays of the 64 canaries (R226, R227). -/
def execCanarySample (readings : Delays) (s : State) : Out :=
  if s.unit == .off || s.unit == .reset || decide (s.power.sampleC < 1024) then .next s
  else
    let old := s.health.can
    let rd := engineReading readings
    let can := old.mapIdx fun e k => sampleCanary s (rd e) k
    let at' (v : Vector Canary (2 ^ 4)) (e : Nat) : Canary := vAt v (BitVec.ofNat 4 e)
    let warn := engineBits fun e => s.cellar.loaded && decide ((rd e).toNat < warnAt s (at' old e))
    let below := engineBits fun e => (at' can e).belowT
    let twice := engineBits fun e => (at' old e).belowT && (at' can e).belowT
    let s := { s with power := { s.power with sampleC := 0 }, health := { s.health with can := can, warn := warn } }
    let s := if warn == 0 then s else setCause s 11 0
    if s.test.vreqEn then .next { s with health := { s.health with lost := s.health.lost ||| below } }
    else if twice != 0 && s.running then .next (enterFault s 0x21)
    else .next s

/-- A write of UM_HL_CMD, in the states of the RW writes of page 11: no row of Table 11-5 names a WO one (R179, R239, log 56). -/
def hlCmdWrite (v : Word) (s : State) : State :=
  stateWrite s 11 0x0A0 s.rwOpen fun s =>
    if v.getLsbD 0 then { s with health := { s.health with can := s.health.can.map fun k => { k with low := k.reading } } } else s

/-- CLR_LOW: every low field set to its current reading. -/
def execClrLow (v : Word) (s : State) : Out := regWrite s (hlCmdWrite (v ||| 1#32))

/-! ### Ledger and life (R228-R230) -/

/-- A write of UM_HL_USED: in IDLE only; it sets ledger_ok. -/
def hlUsedPort (v : Word) (s : State) : State :=
  stateWrite s 11 0x088 (s.unit == .idle) fun s => { s with health := { s.health with used := v, ledgerOk := true } }

/-- HL_USED_WRITE. -/
def execHlUsedWrite (v : Word) (s : State) : Out := regWrite s (hlUsedPort v)

/-- A write of UM_HL_LIFE: in IDLE only, at most 0x0E71_FF80. -/
def hlLifePort (v : Word) (s : State) : State :=
  stateWrite s 11 0x08C (s.unit == .idle) fun s => { s with health := { s.health with life := capAt v 0x0E71FF80#32 } }

/-- HL_LIFE_WRITE. -/
def execHlLifeWrite (v : Word) (s : State) : Out := regWrite s (hlLifePort v)

/-- ravg of R229 after an interval that added s quarters. -/
def smoothRate (ravg : BitVec 16) (quarters : Nat) : BitVec 16 :=
  let q : Int := (quarters * 64 / 2 ^ 24 : Nat)
  BitVec.ofInt 16 (ravg.toNat + (q - ravg.toNat) / 64)

/-- rem of R229: the hours left at a rate, 0 once the rated life is used up. -/
def remainHours (h : Health) (ravg : BitVec 16) : Word :=
  BitVec.ofNat 32 (min ((h.life.toNat - h.used.toNat) * 256 / (max ravg.toNat 16 * 3600)) max32)

/-- LIFE_ESTIMATE: every 2^24 ticks (R229). -/
def execLifeEstimate (s : State) : Out :=
  if s.unit == .off || decide (s.health.estTicks < 2 ^ 24) then .next s
  else
    let h := s.health
    let ravg := smoothRate h.ravg h.quarters
    let rem := remainHours h ravg
    let s := { s with health := { h with ravg := ravg, remain := rem, quarters := 0, estTicks := 0 } }
    let s := if decide (h.lowThr.toNat < h.remain.toNat) && decide (rem.toNat ≤ h.lowThr.toNat) then setCause s 11 1 else s
    .next (if h.remain != 0 && rem == 0 then setCause s 11 2 else s)

/-! ### Margins (R231, R232) -/

/-- A write of UM_MG_BUNDLE: in IDLE only. The canary thresholds E, of which guard is a term, are formed again at the next own-code VACK
(log 105). -/
def bundlePort (v : Word) (s : State) : State :=
  stateWrite s 12 0x040 (s.unit == .idle) fun s =>
    { s with test := { s.test with guard := v.extractLsb' 0 4, sweepMax := v.extractLsb' 8 4 } }

/-- BUNDLE_WRITE. -/
def execBundleWrite (v : Word) (s : State) : Out := regWrite s (bundlePort v)

/-- A margin session ends with its sprint code still the latest acknowledged one: R211 applies as if it had not been acknowledged, at once
where VDD_U is in the sprint region (R232, log 89). -/
def endSession (s : State) : State :=
  if 0x19 < s.power.vack.toNat then
    let s := { s with power := { s.power with lapsed := true } }
    if s.power.vsprint then enterUnlicensed s else s
  else s

/-- A write of UM_MG_VREQ: in IDLE only (R232). -/
def vreqPort (v : Word) (s : State) : State :=
  stateWrite s 12 0x044 (s.unit == .idle) fun s =>
    let s' := { s with test := { s.test with vreqCode := v.extractLsb' 0 6, vreqEn := v.getLsbD 8 } }
    if s.test.vreqEn && !s'.test.vreqEn then endSession s' else s'

/-- VREQ_WRITE. -/
def execVreqWrite (v : Word) (s : State) : Out := regWrite s (vreqPort v)

end Sys2Proof.Machine
end

