-- ==== Sys2Proof/Machine/Guests.lean ====
section
/-! DEFINITION. Guest registers and commands: rings, doorbells, attach, detach, resume (R42-R48). -/

namespace Sys2Proof.Machine

/-- Page offset of a register of guest g's control block (Table 2-8). -/
def guestOff (g : GuestId) (o : Nat) : BitVec 12 := BitVec.ofNat 12 (0x100 + 0x20 * g.toNat + o)

/-- A refusal of page 1 whose argument is the guest. -/
def guestLog (s : State) (g : GuestId) (code : BitVec 8) (status : BitVec 3) : State := logEvent s 1 code status (g.zeroExtend 20)

/-- The ring of a guest (R42). -/
def ringOf (x : Guest) : Area := ⟨x.base.toNat, x.base.toNat + 2 ^ x.log2Size.toNat * 128⟩

/-- The numbers of the guests, in ascending order. -/
def guestIds : List GuestId := (List.range 64).map (BitVec.ofNat 6)

/-- Some attached guest's ring shares a byte with an area. -/
def meetsRing (s : State) (a : Area) : Bool :=
  guestIds.any fun g => (s.guest g).state != .detached && (ringOf (s.guest g)).meets a

/-! ### Base and configuration (R45) -/

/-- A write of UM_GQ_BASE. -/
def gqBasePort (g : GuestId) (v : Word) (s : State) : State :=
  stateWrite s 1 (guestOff g 0) s.running fun s =>
    let b := v.extractLsb' 0 26
    if (s.guest g).state == .detached then s.updGuest g fun x => { x with base := b }
    else if b == (s.guest g).base then s
    else guestLog s g 0x86 stIllegal

/-- GQ_BASE_WRITE. -/
def execGqBaseWrite (g : GuestId) (v : Word) (s : State) : Out := regWrite s (gqBasePort g v)

/-- A write of UM_GQ_CFG: weight and stop_on_reject are stored, log2_size only while the guest is DETACHED. -/
def gqCfgPort (g : GuestId) (v : Word) (s : State) : State :=
  stateWrite s 1 (guestOff g 4) s.running fun s =>
    let k := v.extractLsb' 0 4
    let x := s.guest g
    let locked := x.state != .detached
    let s := s.updGuest g fun x =>
      { x with weight := v.extractLsb' 8 4, stopOnReject := v.getLsbD 16, log2Size := if locked then x.log2Size else k }
    if locked && k != x.log2Size then guestLog s g 0x86 stIllegal else s

/-- GQ_CFG_WRITE. -/
def execGqCfgWrite (g : GuestId) (v : Word) (s : State) : Out := regWrite s (gqCfgPort g v)

/-! ### Doorbell (R43, R46) -/

/-- A write of UM_GQ_DOORBELL. -/
def doorbellPort (g : GuestId) (v : Word) (s : State) : State :=
  stateWrite s 1 (guestOff g 0xC) s.running fun s =>
    let x := s.guest g
    let t := v.extractLsb' 0 16
    if x.state == .detached || x.state == .draining then guestLog s g 0x85 stIllegal
    else if (t - x.head).toNat ≤ 2 ^ x.log2Size.toNat ∧ (x.tail - x.head).toNat ≤ (t - x.head).toNat then
      s.updGuest g fun x => { x with tail := t }
    else guestLog s g 0x84 stBadRange

/-- DOORBELL. -/
def execDoorbell (g : GuestId) (v : Word) (s : State) : Out := regWrite s (doorbellPort g v)

/-! ### Guest commands (R46-R48) -/

/-- The first three checks of an attach. -/
def attachParamOk (x : Guest) : Bool :=
  decide (2 ≤ x.log2Size.toNat) && decide (x.log2Size.toNat ≤ 12) && x.weight != 0 && x.base.toNat % 4096 == 0

/-- attach: checked in order; then indices, status, flags and mailbox are zeroed and the guest is ACTIVE. While twin mode is
requested only the twin guest may attach (R234). -/
def cmdAttach (g : GuestId) (s : State) : State :=
  let x := s.guest g
  if x.state != .detached || (s.twin.enable && s.twin.guest != g) then guestLog s g 0x87 stIllegal
  else if !attachParamOk x then guestLog s g 0x88 stBadField
  else if scratchSize < (ringOf x).hi || meetsRing s (ringOf x) then guestLog s g 0x89 stBadRange
  else
    setGuestState (s.updGuest g fun x =>
      { x with tail := 0, started := 0, head := 0, last := 0, first := 0, flags := 0, mbox := vAll 3 0, record := none,
               discard := false }) g .active

/-- detach_drain, or detach_now with its discard (Table 2-9, R47). -/
def cmdDetach (g : GuestId) (now : Bool) (s : State) : State :=
  let x := s.guest g
  if x.state == .detached || (x.state == .draining && !now) then guestLog s g 0x8B stIllegal
  else if x.head == x.tail then finishDetach s g
  else
    let s := if now then s.updGuest g fun x => { x with discard := true } else s
    if x.state == .draining then s else setGuestState s g .draining

/-- resume: a PAUSED guest returns to ACTIVE (R48). -/
def cmdGuestResume (g : GuestId) (s : State) : State :=
  if (s.guest g).state == .paused then setGuestState s g .active else guestLog s g 0x8A stIllegal

/-- A write of UM_GQ_CMD. -/
def gqCmdWrite (g : GuestId) (v : Word) (s : State) : State :=
  cmdWrite s 1 (guestOff g 0x10) v [0, 1, 2, 3] s.running fun s =>
    if v.getLsbD 0 then cmdAttach g s else if v.getLsbD 1 then cmdDetach g false s else if v.getLsbD 2 then cmdDetach g true s
    else if v.getLsbD 3 then cmdGuestResume g s else s

/-- ATTACH. -/
def execAttach (g : GuestId) (v : Word) (s : State) : Out := regWrite s (gqCmdWrite g (v ||| 1#32))

/-- DETACH_DRAIN. -/
def execDetachDrain (g : GuestId) (v : Word) (s : State) : Out := regWrite s (gqCmdWrite g (v ||| 2#32))

/-- DETACH_NOW. -/
def execDetachNow (g : GuestId) (v : Word) (s : State) : Out := regWrite s (gqCmdWrite g (v ||| 4#32))

/-- GUEST_RESUME. -/
def execGuestResume (g : GuestId) (v : Word) (s : State) : Out := regWrite s (gqCmdWrite g (v ||| 8#32))

/-- A write of UM_GQ_WDOG. -/
def gqWdogPort (g : GuestId) (v : Word) (s : State) : State :=
  stateWrite s 1 (guestOff g 8) s.running fun s => s.updGuest g fun x => { x with limitUs := v.extractLsb' 0 16 }

end Sys2Proof.Machine
end

