-- ==== Sys2Proof/Machine/Overlay.lean ====
section
/-! DEFINITION. Overlays and their edit window (R183-R186). -/

namespace Sys2Proof.Machine

/-! ### Entries (R185, Table 11-7) -/

/-- Target and value word of entry i. -/
def Overlay.target (o : Overlay) (i : Nat) : Word := vAt o.ents (BitVec.ofNat 7 (2 * i))
def Overlay.value (o : Overlay) (i : Nat) : Word := vAt o.ents (BitVec.ofNat 7 (2 * i + 1))

/-- The bits that a context register does not reserve, by page and offset; none for any other target word (Table 11-7). A target with a bit of
[31:16] set names none of them (log 74). -/
def ctxRegMask (target : Word) : Option Word :=
  match target.toNat with
  | 0x9040 => some 0x0000001F#32
  | 0xE040 => some 0x0000013F#32
  | 0xE044 => some 0xFFFFFFFF#32
  | 0xE048 => some 0xFFFFFFFF#32
  | 0xF040 => some 0x0000FF03#32
  | _ => none

/-- Entry i is as R185 and R186 ask. -/
def entryOk (o : Overlay) (i : Nat) : Bool :=
  if i < o.count.toNat then
    match ctxRegMask (o.target i) with
    | some m => o.value i &&& ~~~m == 0
    | none => false
  else o.target i == 0 && o.value i == 0

/-- The first failing entry of a copy. -/
def badEntry (o : Overlay) : Option Nat := (List.range 64).find? fun i => !entryOk o i

/-! ### The window (R186, R248) -/

/-- An itinerary in execution holds the overlay in its context. -/
def overlayHeld (s : State) (k : Nat) : Bool :=
  (match s.ctx0 with | some c => rOverlay c.it == k + 1 | none => false) ||
  (match s.ctx1 with | some c => rOverlay c.it == k + 1 | none => false)

/-- open: OVL_OPEN is judged before OVL_BUSY (order: log 77; reopening: log 47). -/
def ovOpen (s : State) : State :=
  let held (s : State) : State :=
    if overlayHeld s s.ovSel.toNat then logEvent s 3 0x99 stIllegal (s.ovSel.zeroExtend 20)
    else { s with ovWin := some ⟨s.ovSel, vAt s.overlays s.ovSel⟩ }
  match s.ovWin with
  | some w => if w.sel != s.ovSel then logEvent s 3 0x98 stIllegal (w.sel.zeroExtend 20) else held s
  | none => held s

/-- apply: the copy replaces the overlay when it passes. A count above 64 without a failing entry leaves the name of the first
failing entry open: a free value (log 34). -/
def ovApply (s : State) : State :=
  match s.ovWin with
  | none => s
  | some w =>
    let fail (n : Nat) (s : State) : State := logEvent { s with ovBad := BitVec.ofNat 6 n } 3 0x9A stBadField (BitVec.ofNat 20 n)
    match badEntry w.copy with
    | some i => fail i s
    | none =>
      if 64 < w.copy.count.toNat then fail (Config.freeNat s.free % 64) { s with free := s.free + 1 }
      else
        let s := { s with overlays := vPut s.overlays w.sel w.copy, ovWin := none }
        traceBase s 3 0x19 (w.sel.zeroExtend 32) (w.copy.count.zeroExtend 32)

/-- discard. -/
def ovDiscard (s : State) : State := { s with ovWin := none }

/-- A write of UM_OV_CTRL: sel is stored, then the command acts. -/
def ovCtrlWrite (v : Word) (s : State) : State :=
  cmdWrite s 3 0x040 v [8, 9, 10] s.running fun s =>
    let s := { s with ovSel := v.extractLsb' 0 3 }
    if v.getLsbD 8 then ovOpen s else if v.getLsbD 9 then ovApply s else if v.getLsbD 10 then ovDiscard s else s

/-- OVERLAY_OPEN. -/
def execOverlayOpen (v : Word) (s : State) : Out := regWrite s (ovCtrlWrite (v ||| 0x100#32))

/-- OVERLAY_APPLY. -/
def execOverlayApply (v : Word) (s : State) : Out := regWrite s (ovCtrlWrite (v ||| 0x200#32))

/-- OVERLAY_DISCARD. -/
def execOverlayDiscard (v : Word) (s : State) : Out := regWrite s (ovCtrlWrite (v ||| 0x400#32))

/-- The offset is UM_OV_COUNT or one of UM_OV_ENT. -/
def isOvData (off : BitVec 12) : Bool :=
  off == 0x048 || (off.toNat % 4 == 0 && decide (0x200 ≤ off.toNat) && decide (off.toNat < 0x400))

/-- A write to UM_OV_COUNT or UM_OV_ENT. -/
def ovDataWrite (off : BitVec 12) (v : Word) (s : State) : State :=
  stateWrite s 3 off s.running fun s =>
    match s.ovWin with
    | none => logEvent s 3 0x9B stIllegal (off.zeroExtend 20)
    | some w =>
      let o := w.copy
      let o := if off.toNat < 0x200 then { o with count := v.extractLsb' 0 7 }
        else { o with ents := vPut o.ents (BitVec.ofNat 7 ((off.toNat - 0x200) / 4)) v }
      { s with ovWin := some { w with copy := o } }

/-- OVERLAY_WINDOW_WRITE. -/
def execOverlayWindowWrite (off : BitVec 12) (v : Word) (s : State) : Out :=
  regWrite s fun s => if isOvData off then ovDataWrite off v s else s

/-! ### Contexts (R183) -/

/-- One entry's write laid over a context's values. -/
def overlayEntry (c : Ctx) (target value : Word) : Ctx :=
  match target.toNat with
  | 0x9040 => { c with smCfg := value }
  | 0xE040 => { c with tsCtrl := value }
  | 0xE044 => { c with tsConvThr := value }
  | 0xE048 => { c with tsFnThr := value }
  | 0xF040 => { c with trCtrl := value }
  | _ => c

/-- The overlay's writes in list order. -/
def applyOverlay (c : Ctx) (o : Overlay) : Ctx :=
  (List.range (min o.count.toNat 64)).foldl (fun c i => overlayEntry c (o.target i) (o.value i)) c

end Sys2Proof.Machine
end

