-- ==== Sys2Proof/Machine/Tables.lean ====
section
/-! DEFINITION. Cellar tables: staging, commit, abandon and the page 5 window (R187-R191). -/

namespace Sys2Proof.Machine

/-! ### Tables (Table 11-9) -/

/-- Bytes per bank; a reserved id names no bytes. -/
def tableSize (t : Nat) : Nat :=
  match t with
  | 0 => 8192 | 1 => 1024 | 2 => 64 | 8 => 1024 | 9 => 72 | 10 => 784 | 11 => 96 | 12 => 1024 | 13 => 48 | 14 => 2048 | 15 => 48
  | _ => 0

/-- A core table. -/
def isCore (t : Nat) : Bool := decide (8 ≤ t)

/-- A reserved id. -/
def isReservedTable (t : Nat) : Bool := decide (3 ≤ t) && decide (t ≤ 7)

/-- STAGING of a table. -/
def staging (c : Cellar) (t : Nat) : Bool :=
  match t with
  | 0 => c.stBlend | 1 => c.stDq8 | 2 => c.stDq4 | _ => false

/-- The active bank of a table, true = B; core tables never change (R122). -/
def activeBank (c : Cellar) (t : Nat) : Bool :=
  match t with
  | 0 => c.actBlend | 1 => c.actDq8 | 2 => c.actDq4 | _ => false

/-- The bank of a table that a context pins (R188). -/
def pinnedBank (c : Ctx) (t : Nat) : Bool :=
  match t with
  | 0 => c.bankBlend | 1 => c.bankDq8 | 2 => c.bankDq4 | _ => false

/-- The inactive bank of a table is in use (R188). -/
def inactiveBusy (s : State) (t : Nat) : Bool :=
  let b := activeBank s.cellar t
  (match s.ctx0 with | some c => pinnedBank c t != b | none => false) ||
  (match s.ctx1 with | some c => pinnedBank c t != b | none => false)

/-- A page 4 refusal whose argument is a table id. -/
def tableLog (s : State) (code : BitVec 8) (status : BitVec 3) : State := logEvent s 4 code status (s.cellar.selTable.zeroExtend 20)

/-! ### stage, commit, abandon (R189, R190) -/

/-- The active bank copied into the inactive one, with its empty state. -/
def copyBank (c : Cellar) (t : Nat) : Cellar :=
  match t with
  | 0 => if c.actBlend then { c with blendA := c.blendB, stBlend := true } else { c with blendB := c.blendA, stBlend := true }
  | 1 => if c.actDq8 then { c with dq8A := c.dq8B, emDq8A := c.emDq8B, stDq8 := true }
         else { c with dq8B := c.dq8A, emDq8B := c.emDq8A, stDq8 := true }
  | 2 => if c.actDq4 then { c with dq4A := c.dq4B, emDq4A := c.emDq4B, stDq4 := true }
         else { c with dq4B := c.dq4A, emDq4B := c.emDq4A, stDq4 := true }
  | _ => c

/-- stage. -/
def tableStage (s : State) : State :=
  let t := s.cellar.selTable.toNat
  if isReservedTable t then s
  else if isCore t then tableLog s 0xA1 stBadField
  else if staging s.cellar t then tableLog s 0xA2 stIllegal
  else if inactiveBusy s t then tableLog (raiseEvent s .tableGen) 0xA0 stIllegal
  else { s with cellar := copyBank s.cellar t }

/-- STAGING ends for a table. -/
def unstage (c : Cellar) (t : Nat) : Cellar :=
  match t with
  | 0 => { c with stBlend := false }
  | 1 => { c with stDq8 := false }
  | 2 => { c with stDq4 := false }
  | _ => c

/-- abandon. -/
def tableAbandon (s : State) : State :=
  let t := s.cellar.selTable.toNat
  if isReservedTable t then s
  else if isCore t then tableLog s 0xA1 stBadField
  else if staging s.cellar t then { s with cellar := unstage s.cellar t }
  else tableLog s 0xA3 stIllegal

/-- The lowest failing user slot of the staged BLEND bank and its lowest failing word (R61). -/
def badImage (c : Cellar) : Option (Nat × Nat) :=
  ((List.range 32).map (32 + ·)).findSome? fun slot => (imageFault (blendImage c (!c.actBlend) slot)).map fun w => (slot, w)

/-- The next generation: values whose low 8 bits are 0 are skipped (R190). -/
def nextGen (g : Word) : Word := if (g + 1).extractLsb' 0 8 == 0 then g + 2 else g + 1

/-- Every staged bank becomes active. -/
def commitBanks (c : Cellar) : Cellar :=
  { c with
    actBlend := c.actBlend != c.stBlend, actDq8 := c.actDq8 != c.stDq8, actDq4 := c.actDq4 != c.stDq4,
    emDq8A := c.emDq8A && !(c.stDq8 && c.actDq8), emDq8B := c.emDq8B && !(c.stDq8 && !c.actDq8),
    emDq4A := c.emDq4A && !(c.stDq4 && c.actDq4), emDq4B := c.emDq4B && !(c.stDq4 && !c.actDq4),
    stBlend := false, stDq8 := false, stDq4 := false, gen := nextGen c.gen }

/-- The STAGING bits as UM_CT_STAT and the COMMIT event show them. -/
def stagingBits (c : Cellar) : Word := bit1 c.stBlend ||| (bit1 c.stDq8 <<< 1) ||| (bit1 c.stDq4 <<< 2)

/-- commit. -/
def tableCommit (s : State) : State :=
  let c := s.cellar
  if !c.stBlend && !c.stDq8 && !c.stDq4 then tableLog s 0xA3 stIllegal
  else
    match if c.stBlend then badImage c else none with
    | some (slot, w) => logEvent s 4 0xA6 stBadField (BitVec.ofNat 20 (slot + 64 * w))
    | none =>
      let s := { s with cellar := commitBanks c }
      traceBase s 3 0x18 (stagingBits c) s.cellar.gen

/-- A write of UM_CT_CMD; the unit state is judged before a reserved id is ignored (log 87). -/
def ctCmdWrite (v : Word) (s : State) : State :=
  cmdWrite s 4 0x048 v [0, 1, 2] s.running fun s =>
    if v.getLsbD 0 then tableStage s else if v.getLsbD 1 then tableCommit s else if v.getLsbD 2 then tableAbandon s else s

/-- TABLE_STAGE. -/
def execTableStage (v : Word) (s : State) : Out := regWrite s (ctCmdWrite (v ||| 1#32))

/-- TABLE_COMMIT. -/
def execTableCommit (v : Word) (s : State) : Out := regWrite s (ctCmdWrite (v ||| 2#32))

/-- TABLE_ABANDON. -/
def execTableAbandon (v : Word) (s : State) : Out := regWrite s (ctCmdWrite (v ||| 4#32))

/-! ### The window of page 5 (R189, R191) -/

/-- The byte of the selected table that window word w shows. -/
def windowByte (c : Cellar) (w : BitVec 9) : Nat := 2048 * c.selWindow.toNat + 4 * w.toNat

/-- A word of the inactive bank written. -/
def putInactive (c : Cellar) (t k : Nat) (v : Word) : Cellar :=
  match t with
  | 0 =>
    let i := BitVec.ofNat 10 (k - 1024)
    if c.actBlend then { c with blendA := vPut c.blendA i v } else { c with blendB := vPut c.blendB i v }
  | 1 =>
    let i := BitVec.ofNat 8 k
    if c.actDq8 then { c with dq8A := vPut c.dq8A i v } else { c with dq8B := vPut c.dq8B i v }
  | 2 =>
    let i := BitVec.ofNat 4 k
    if c.actDq4 then { c with dq4A := vPut c.dq4A i v } else { c with dq4B := vPut c.dq4B i v }
  | _ => c

/-- A write to window word w: the first row of R189's table that applies. The unit state is judged first, also for a write that R189 ignores
(log 87). -/
def windowWrite (w : BitVec 9) (v : Word) (s : State) : State :=
  stateWrite s 5 (BitVec.ofNat 12 (0x800 + 4 * w.toNat)) s.running fun s =>
    let c := s.cellar
    let t := c.selTable.toNat
    let a := windowByte c w
    if tableSize t ≤ a then s
    else if isCore t then tableLog s 0xA1 stBadField
    else if c.selView then tableLog s 0xA4 stIllegal
    else if !staging c t then tableLog s 0xA3 stIllegal
    else if t = 0 ∧ a < 4096 then logEvent s 4 0xA5 stBadField (BitVec.ofNat 20 (a / 128))
    else { s with cellar := putInactive c t (a / 4) v }

/-- TABLE_WINDOW_WRITE. -/
def execTableWindowWrite (w : BitVec 9) (v : Word) (s : State) : Out := regWrite s (windowWrite w v)

/-- Entry k, 64 bits, of a core table (R122). -/
def coreEntry (t k : Nat) : BitVec 64 :=
  let ofInt (i : Int) := BitVec.ofInt 64 i
  -- the coefficient sets of grades 1, 2, 3 of n1, n2, n3 values each
  let set (f : Nat → List Int) : BitVec 64 := ofInt (((f 1 ++ f 2 ++ f 3)).getD k 0)
  match t with
  | 8 => ofInt (exT k)
  | 9 => set exC
  | 10 => ofInt (if k % 2 = 0 then (lgT (k / 2)).1 else (lgT (k / 2)).2)
  | 11 => set lgC
  | 12 => ofInt (rcT k)
  | 13 => set rcC
  | 14 => ofInt (if k % 2 = 0 then (rsT (k / 2)).1 else (rsT (k / 2)).2)
  | 15 => set rsC
  | _ => 0

/-- Word k of a bank of a table. -/
def tableWord (c : Cellar) (t : Nat) (bank : Bool) (k : Nat) : Word :=
  match t with
  | 0 => blendWord c bank (k / 32) (k % 32)
  | 1 => vAt (if bank then c.dq8B else c.dq8A) (BitVec.ofNat 8 k)
  | 2 => vAt (if bank then c.dq4B else c.dq4A) (BitVec.ofNat 4 k)
  | _ => (coreEntry t (k / 2)).extractLsb' (32 * (k % 2)) 32

/-- What a read of window word w returns (R191): 0 while the banks are unloaded, whatever view selects (logs 86 and 103). -/
def windowRead (c : Cellar) (w : BitVec 9) : Word :=
  let t := c.selTable.toNat
  let a := windowByte c w
  if !c.loaded || tableSize t ≤ a then 0
  else if c.selView then tableWord c t (activeBank c t) (a / 4)
  else if staging c t then tableWord c t (!activeBank c t) (a / 4)
  else 0

/-- UM_CT_STAT.empty of BLEND: every user slot of the active bank is all zero. -/
def blendEmptyAll (c : Cellar) : Bool := (if c.actBlend then c.blendB else c.blendA).all (· == 0)

end Sys2Proof.Machine
end

