-- ==== Sys2Proof/Machine/Twin.lean ====
section
/-! DEFINITION. Twin operation: the twin stream, its hashes, compare and leave (R27, R234-R238). -/

namespace Sys2Proof.Machine

/-! ### The hash (R236) -/

/-- mixw of R236. -/
def mixw (w : BitVec 64) (k : Nat) : BitVec 64 :=
  let x := w ^^^ (BitVec.ofNat 64 k * 0x9E3779B97F4A7C15#64)
  let x := (x ^^^ (x >>> 31)) * 0xBF58476D1CE4E5B9#64
  let x := (x ^^^ (x >>> 27)) * 0x94D049BB133111EB#64
  x ^^^ (x >>> 31)

/-- The little-endian number of a list of bytes. -/
def bytesNat : List Byte → Nat
  | [] => 0
  | b :: t => b.toNat + 256 * bytesNat t

/-- The sum over the words of a chunk from word k on, `n` words. -/
def hashFrom (k : Nat) (bytes : List Byte) : Nat → BitVec 64
  | 0 => 0
  | n + 1 => mixw (BitVec.ofNat 64 (bytesNat (bytes.take 8))) k + hashFrom (k + 1) (bytes.drop 8) n

/-- The hash of a chunk of 4,096 bytes. -/
def chunkHash (bytes : List Byte) : BitVec 64 := hashFrom 0 bytes 512

/-! ### Leaving twin mode (R238) -/

/-- Twin mode ends: enable and active clear, own hashes are counted as uncompared, partner messages are discarded, and the registers
of the stream read zero; LOST unless SEQ was set. -/
def leaveTwin (s : State) (lost : Bool) : State :=
  let t := s.twin
  let s := { s with twin := { t with enable := false, active := false, uncmp := satAdd t.uncmp t.own.length, own := [], part := [],
                                     stream := [], nextTx := 0, nextCmp := 0, hash := 0, hashHi := 0 } }
  if lost then setCause s 13 2 else s

/-- TWIN_LEAVE: the partner has left its running states or cleared enable. -/
def execTwinLeave (s : State) : Out := .next (if s.twin.active then leaveTwin s true else s)

/-! ### Compare (R237) -/

/-- A mismatch of sequence number q. -/
def twinMismatch (s : State) (q : BitVec 16) : State :=
  let s := raiseEvent s .twinMismatch
  let t := s.twin
  let s := { s with twin := { t with misCnt := satAdd t.misCnt 1, missSeq := if t.missValid then t.missSeq else q, missValid := true } }
  let s := traceBase (setCause s 13 0) 5 0x29 (q.zeroExtend 32) 1
  if t.onMismatch && s.unit == .run then toHold s else s

/-- The oldest own hash against the partner's oldest message, at most n times. The SEQ event carries the own sequence number (log 36). -/
def twinCompare (s : State) : Nat → State
  | 0 => s
  | n + 1 =>
    match s.twin.own, s.twin.part with
    | (q, h) :: own, (q', h') :: part =>
      if q == q' then
        let s := { s with twin := { s.twin with own := own, part := part, nextCmp := q + 1, hash := h } }
        twinCompare (if h == h' then s else twinMismatch s q) n
      else leaveTwin (traceBase (setCause s 13 1) 5 0x29 (q.zeroExtend 32) 2) false
    | _, _ => s

/-- Compared as far as both sides reach. -/
def twinSettle (s : State) : State := twinCompare s (s.twin.own.length + 1)

/-- TWIN_ACTIVATE: both instances have enable set (R234); in BIST and FAULT it is ignored (log 90). -/
def execTwinActivate (s : State) : Out :=
  .next (if s.running && s.twin.enable && !s.twin.active then
    { s with twin := { s.twin with active := true, nextTx := 0, nextCmp := 0, own := [], part := [], stream := [], hash := 0, hashHi := 0 } }
  else s)

/-- TWIN_CHUNK_SEND: the next chunk is complete; its hash is sent and awaits the partner's, unless the FIFO is full (R27, R236). In BIST and
FAULT a complete chunk is still sent (log 97). -/
def execTwinChunkSend (s : State) : Out :=
  let t := s.twin
  if t.active && decide (4096 ≤ t.stream.length) && decide (t.own.length < 64) then
    let h := chunkHash (t.stream.take 4096)
    let s := { s with twinOut := s.twinOut ++ [(t.nextTx, h)],
                      twin := { t with stream := t.stream.drop 4096, nextTx := t.nextTx + 1, own := t.own ++ [(t.nextTx, h)] } }
    .next (twinSettle s)
  else .next s

/-- TWIN_MESSAGE: a partner message is held, and compared with the own hash of the same number, in every state in which twin mode is active
(R10, R237). The FIFO of 64 never overflows, because the partner waits for this instance's hashes (R27). -/
def execTwinMessage (seq : BitVec 16) (hash : BitVec 64) (s : State) : Out :=
  if s.twin.active && decide (s.twin.part.length < 64) then
    .next (twinSettle { s with twin := { s.twin with part := s.twin.part ++ [(seq, hash)] } })
  else .next s

/-! ### UM_TW_CTRL (R234) -/

/-- Some guest other than g is attached. -/
def otherAttached (s : State) (g : GuestId) : Bool := guestIds.any fun k => k != g && (s.guest k).state != .detached

/-- A write of UM_TW_CTRL: in IDLE only. Clearing enable ends twin mode here as it does for the partner (log 35). -/
def twCtrlPort (v : Word) (s : State) : State :=
  stateWrite s 13 0x040 (s.unit == .idle) fun s =>
    let g := v.extractLsb' 8 6
    if v.getLsbD 0 && otherAttached s g then refuseState s 13 0x040
    else
      let s := { s with twin := { s.twin with enable := v.getLsbD 0, guest := g, onMismatch := v.getLsbD 16 } }
      if s.twin.active && !s.twin.enable then leaveTwin s true else s

/-- TW_CTRL_WRITE. -/
def execTwCtrlWrite (v : Word) (s : State) : Out := regWrite s (twCtrlPort v)

/-! ### The segment of a completion (R235) -/

/-- The noted codes of one output, as (e, code). -/
def notedOf (l : List Noted) (out1 : Bool) : List (Nat × Nat) := (l.filter (·.out == out1)).map fun n => (n.e, n.code)

/-- Little-endian bytes of a code. -/
def codeBytes : Nat → Nat → List Byte
  | 0, _ => []
  | n + 1, v => BitVec.ofNat 8 v :: codeBytes n (v / 256)

/-- Bytes that a position of an output contributes. -/
def positionSize (f : Fmt) : Nat := if f.bits ≤ 8 then 1 else if f.bits = 16 then 2 else 4

/-- The linear indices of an output's positions, in increasing order (Table 5-3). -/
def positions (r : Record) (out1 : Bool) : List Nat :=
  if rowOut (rCls r) out1 then
    if isCol r then
      -- (i0, 0, i2, i3)
      ((List.range (rD2 r * rD3 r)).map fun q => (List.range (rD0 r)).map fun i0 =>
        linIndex r ⟨i0, 0, q % rD2 r, q / rD2 r⟩).flatten
    else (List.range (rD1 r * rD2 r * rD3 r)).map (rD0 r * ·)
  else List.range (rD0 r * rD1 r * rD2 r * rD3 r)

/-- The bytes of memory from a to b. -/
def memBytes (m : List Host.Cell) (a : Area) : List Byte := (List.range (a.hi - a.lo)).map fun k => memByte m (a.lo + k)

/-- One output's part of a segment. -/
def outputBytes (s : State) (c : Ctx) (out1 : Bool) : List Byte :=
  let d := rDesc c.it (outOpd out1)
  if dPresent d then
    let codes := notedOf c.noted out1
    ((positions c.it out1).map fun e => codeBytes (positionSize (dFmt d)) ((codes.lookup e).getD 0)).flatten ++
    (if dIsBlock d then memBytes s.mem (scaleArea c.it d) else [])
  else []

/-- The header of a segment. -/
def segmentHeader (e : Entry) (flags : BitVec 12) : List Byte :=
  codeBytes 8 (e.index.toNat + e.cls.toNat * 2 ^ 16 + e.status.toNat * 2 ^ 20 + e.reason.toNat * 2 ^ 24 + flags.toNat * 2 ^ 32)

/-- Zero bytes up to the next multiple of 4,096. -/
def padChunk (l : List Byte) : List Byte := l ++ List.replicate (cdiv l.length 4096 * 4096 - l.length) 0

/-- The segment of a completion: the header alone for one that is rejected, discarded or ended by the watchdog. -/
def segment (s : State) (e : Entry) (c : Option Ctx) (flags : BitVec 12) : List Byte :=
  padChunk (segmentHeader e flags ++
    match c with
    | none => []
    | some c => outputBytes s c false ++ outputBytes s c true ++ (match sumArea c.it with | some a => memBytes s.mem a | none => []))

end Sys2Proof.Machine
end

