-- ==== Sys2Proof/Machine/Trace.lean ====
section
/-! DEFINITION. Page 15: the trace buffer and the debug step (R252-R259). -/

namespace Sys2Proof.Machine

/-- stop_full of the base value. -/
def stopFull (s : State) : Bool := s.trace.ctrl.getLsbD 1

/-- Recording stops at a full buffer (R254). -/
def traceFull (s : State) : State := setCause { s with trace := { s.trace with stopped := true } } 15 0

/-- One entry written to the buffer (R254). A buffer already full when stop_full is set takes no further event (log 37). -/
def writeEntry (s : State) (e : TrEnt) : State :=
  let t := s.trace
  if t.count = 128 && stopFull s then traceFull s
  else
    let s := { s with trace := { t with ents := vPut t.ents t.next e, next := t.next + 1, count := min (t.count + 1) 128,
                                        wrapped := t.wrapped || t.count == 128 } }
    if s.trace.count == 128 && t.count != 128 && stopFull s then traceFull s else s

/-- The oldest queued event written. What is queued when recording stops waits, and is written once recording goes on (log 98). -/
def traceStep (s : State) : State :=
  if s.trace.stopped then s
  else
    match s.trace.queue with
    | [] => s
    | e :: q =>
      if s.trace.count = 128 && stopFull s then traceFull s
      else writeEntry { s with trace := { s.trace with queue := q } } e

/-- TRACE_WRITE: a queued event enters the buffer. -/
def execTraceWrite (s : State) : Out := .next (if s.unit == .off then s else traceStep s)

/-- n queued events written. -/
def traceFlush (s : State) : Nat → State
  | 0 => s
  | n + 1 => traceFlush (traceStep s) n

/-- clear (R256). -/
def trClear (s : State) : State :=
  { s with trace := { s.trace with ents := vAll 7 ⟨0, 0, 0, 0⟩, next := 0, count := 0, wrapped := false, stopped := false, queue := [] } }

/-- freeze: queued events are written first. -/
def trFreeze (s : State) : State :=
  let s := traceFlush s s.trace.queue.length
  { s with trace := { s.trace with stopped := true } }

/-- unfreeze. -/
def trUnfreeze (s : State) : State :=
  if s.trace.count == 128 && stopFull s then s else { s with trace := { s.trace with stopped := false } }

/-- A write of UM_TR_CMD, legal in every state other than OFF (R246). -/
def trCmdWrite (v : Word) (s : State) : State :=
  cmdWrite s 15 0x048 v [0, 1, 2] true fun s =>
    if v.getLsbD 0 then trClear s else if v.getLsbD 1 then trFreeze s else if v.getLsbD 2 then trUnfreeze s else s

/-- TR_CLEAR. -/
def execTrClear (v : Word) (s : State) : Out := regWrite s (trCmdWrite (v ||| 1#32))

/-- TR_FREEZE. -/
def execTrFreeze (v : Word) (s : State) : Out := regWrite s (trCmdWrite (v ||| 2#32))

/-- TR_UNFREEZE. -/
def execTrUnfreeze (v : Word) (s : State) : Out := regWrite s (trCmdWrite (v ||| 4#32))

/-! ### The debug step (R257) -/

/-- Beats of a step: 0 counts as 1 (Table 15-6). -/
def stepBeats (v : BitVec 16) : BitVec 16 := if v == 0 then 1 else v

/-- Every engine may issue n further beats for the itineraries in execution; without one, none (R257). An engine between two rows
serves them too, and one that finds no row to take has no work left (log 81). -/
def startStep (s : State) : State :=
  let n := stepBeats s.trace.dbgBeats
  { s with trace := { s.trace with stepping := true, stepReq := n },
           engines := s.engines.map fun x => { x with stepLeft := if s.inExec == 0 then 0 else n } }

/-- A write of UM_DBG_CMD: beats is legal in every state, step in HOLD only. -/
def dbgCmdWrite (v : Word) (s : State) : State :=
  stateWrite s 15 0x054 (!v.getLsbD 31 || s.unit == .hold) fun s =>
    let s := { s with trace := { s.trace with dbgBeats := v.extractLsb' 0 16 } }
    if v.getLsbD 31 then startStep s else s

/-- STEP. -/
def execStep (v : Word) (s : State) : Out := regWrite s (dbgCmdWrite (v ||| 0x80000000#32))

/-- The engine has issued its step beats or has no work left. -/
def stepSpent (s : State) (e : EngineId) : Bool :=
  let x := s.engine e
  x.stepLeft == 0 || (x.phase == .none && (takeRow s e).isNone)

/-- The numbers of the row engines. -/
def engineIds : List EngineId := (List.range 16).map (BitVec.ofNat 4)

/-- STEP_END: the step ends, with its cause and event. -/
def execStepEnd (s : State) : Out :=
  if s.unit == .hold && s.trace.stepping && engineIds.all (stepSpent s) then
    let n := s.trace.stepReq
    .next (traceBase (setCause (dropStep s) 15 2) 7 0x38 (n.zeroExtend 32) 0)
  else .next s

end Sys2Proof.Machine
end

