-- ==== Sys2Proof/Machine/Checks.lean ====
section
/-! DEFINITION. The checks of an itinerary in the order of Table 2-7, and the hold of R50 (R30-R41, R64, R68, R93, R100). -/

namespace Sys2Proof.Machine

/-- Status and reason of a failed check. -/
abbrev Reject := Option (BitVec 3 × BitVec 8)

/-- A failed check. -/
def failIf (bad : Bool) (status : BitVec 3) (reason : BitVec 8) : Reject := if bad then some (status, reason) else none

/-- Some present operand satisfies a condition. -/
def anyPresent (r : Record) (f : Opd → Desc → Bool) : Bool := allOpds.any fun o => rHas r o && f o (rDesc r o)

/-! ### 0x01 and 0x02 -/

/-- Reserved bits, and mask_a or mask_b not zero where R39 requires zero. -/
def bad01 (r : Record) : Bool :=
  r.extractLsb' 28 4 != 0 || r.extractLsb' 378 6 != 0 || (allOpds.any fun o => dReserved (rDesc r o) != 0) ||
  (hw r 7 != 0 && rMaskMode r != 3) ||
  (hw r 6 != 0 && (rMaskMode r == 0 || rMaskMode r == 1 || (rMaskMode r == 4 && rHas r .in2)))

/-- Reserved encodings (R30, R31). -/
def bad02 (r : Record) : Bool :=
  rCls r == .reserved || rGrade r == 0 || decide (8 < rOverlay r) || decide (4 < rMaskMode r) || rRounding r == 3 ||
  anyPresent r fun _ d => decide (12 ≤ (dFmtCode d).toNat) || decide (6 ≤ dScale d) || decide (6 ≤ dBlockCode d) || dHint d == 3

/-! ### 0x03: presence (R31, R37, R64) -/

/-- What Table 2-5 asks of an operand. -/
inductive Need where
  | required | optional | absent
deriving DecidableEq, Repr

/-- A mask operand (the note of Table 2-5). -/
def maskNeed (r : Record) : Need := if rMaskMode r == 1 then .required else if rMaskMode r == 4 then .optional else .absent

/-- The presence column of an operand. PERM knows only a length operand. -/
def need (r : Record) (o : Opd) : Need :=
  match o with
  | .in0 => .required
  | .in1 =>
    match rCls r with
    | .elem => .optional
    | .gate | .normFwd | .normBwd | .dot | .xent | .perm => .required
    | _ => .absent
  | .in2 =>
    match rCls r with
    | .elem => if rMaskMode r == 1 then .required else .optional
    | .normFwd => if rRms r then .absent else .required
    | .normBwd => .required
    | .perm => if rMaskMode r == 4 then .optional else .absent
    | _ => maskNeed r
  | .out0 =>
    match rCls r with
    | .stat | .amax => .optional
    | _ => .required
  | .out1 =>
    match rCls r with
    | .elem | .normFwd | .stat | .smax | .xent => .optional
    | _ => .absent

/-- Presence is as Table 2-5 asks. -/
def needOk (r : Record) (o : Opd) : Bool :=
  match need r o with
  | .required => rHas r o
  | .optional => true
  | .absent => !rHas r o

/-- Descriptor presence does not match the class. -/
def bad03 (r : Record) : Bool :=
  (allOpds.any fun o => !rHas r o && rDesc r o != 0) || (allOpds.any fun o => !needOk r o) ||
  (rCls r == .elem && rHas r .in2 && !maskReads r && !rHas r .in1) ||
  (rCls r == .stat && !rHas r .out0 && !rHas r .out1) || (rCls r == .amax && !rHas r .out0 && !rVslotEn r)

/-! ### 0x04: format and scale mode (Table 2-4, R32, R100) -/

/-- in2 is the mask's operand: in the normalisation classes it is data. -/
def maskOperand (r : Record) (o : Opd) : Bool :=
  o == .in2 && maskReads r && rCls r != .normFwd && rCls r != .normBwd

/-- The formats of a position. -/
def fmtOk (r : Record) (o : Opd) (d : Desc) : Bool :=
  let f := (dFmtCode d).toNat
  if o.isOut then decide (f ≤ 7)
  else if o == .in1 && (rCls r == .xent || rCls r == .perm) then f == 10
  else if maskOperand r o then (if rMaskMode r == 1 then f == 11 else f == 10)
  else decide (f ≤ 9)

/-- The scale modes of a format (R32). -/
def scaleOk (d : Desc) : Bool :=
  let f := (dFmtCode d).toNat
  let blockZero := dBlockCode d == 0 && !dBlockDir d
  if dIsBlock d then decide (3 ≤ f) && decide (f ≤ 7)
  else blockZero &&
    (if f == 8 || f == 9 then dScale d == scDqTable || dScale d == scDqAffine
     else if dScale d == scVintage then decide (2 ≤ f) && decide (f ≤ 7)
     else dScale d == scNone)

/-- A "(row)" position of Table 2-5 among the outputs. -/
def rowPos (r : Record) (o : Opd) : Bool :=
  match o with
  | .out0 => rowOut (rCls r) false
  | .out1 => rowOut (rCls r) true
  | _ => false

/-- Format or scale mode not allowed for the position. -/
def bad04 (r : Record) : Bool :=
  anyPresent r fun o d => !fmtOk r o d || !scaleOk d || (dIsBlock d && (dRow d || (isCol r && rowPos r o)))

/-! ### 0x05 to 0x07 -/

/-- The row bit of a position (R37); a column-mode output also has stride1 = 0. With axis = 1 and a class other than STAT and AMAX, which
0x07 rejects, 0x05 is judged by the rule of rows (log 92). -/
def rowOk (r : Record) (o : Opd) (d : Desc) : Bool :=
  if rowPos r o then (if isCol r then !dRow d && dStride1 d == 0 else dRow d)
  else dRow d == ((o == .in1 && rCls r == .xent) || (maskOperand r o && rMaskMode r == 4))

/-- Row bit wrong for the position. -/
def bad05 (r : Record) : Bool := anyPresent r fun o d => !rowOk r o d

/-- Mask modes of a class (Table 2-5). -/
def maskModeOk (r : Record) : Bool :=
  match rCls r with
  | .normFwd | .normBwd => rMaskMode r == 0
  | .perm => rMaskMode r == 0 || rMaskMode r == 4
  | _ => true

/-- Mask mode not allowed for class or axis, BAND with mask_a > mask_b, or R68. -/
def bad06 (r : Record) : Bool :=
  !maskModeOk r || (rAxis r && rMaskMode r != 0) || (rMaskMode r == 3 && decide (rMaskB r < rMaskA r)) ||
  (rMaskMode r != 0 && !rFillZero r && anyPresent r fun o d => o.isOut && dIsBlock d)

/-- axis, rms or strict_inf set for a class that does not allow it. -/
def bad07 (r : Record) : Bool :=
  (rAxis r && rCls r != .stat && rCls r != .amax) || (rRms r && rCls r != .normFwd && rCls r != .normBwd) ||
  (rStrict r && rCls r != .smax && rCls r != .lse && rCls r != .xent)

/-! ### 0x08: the blend field (R37, R64, Table 3-6) -/

/-- Classes that run a blend. -/
def runsBlend (r : Record) : Bool := rCls r == .elem || rCls r == .gate || rCls r == .stat || rCls r == .conv

/-- The blend field names an empty user slot of the active bank (R60). -/
def namesEmpty (c : Cellar) (r : Record) : Bool := runsBlend r && decide (32 ≤ rBlend r) && blendEmpty c c.actBlend (rBlend r)

/-- Kinds that a class accepts. -/
def kindOk (r : Record) (k : Nat) : Bool :=
  match rCls r with
  | .elem => k == 0 || k == 1 || k == 3
  | .gate => k == 1
  | .stat => k == 2
  | _ => k == 3

/-- Data inputs of an itinerary, as ELEM counts them. -/
def dataInputs (r : Record) : Nat :=
  1 + (if rHas r .in1 then 1 else 0) + (if rHas r .in2 && !maskReads r then 1 else 0)

/-- The signature of Table 3-6. -/
def sigOk (r : Record) (h : Word) : Bool :=
  kindOk r (bhKind h) &&
  (if rCls r == .elem then bhNin h == dataInputs r && bhNout h == (if rHas r .out1 then 2 else 1)
   else bhNin h == 1 && bhNout h == 1)

/-- The blend field breaks the class's rule, or the blend's signature does not match. -/
def bad08 (c : Cellar) (r : Record) : Bool :=
  if runsBlend r then !namesEmpty c r && !sigOk r (blendWord c c.actBlend (rBlend r) 0) else rBlend r != 0

/-! ### 0x09 to 0x0B -/

/-- VINTAGE operands. -/
def vintageCount (r : Record) : Nat := (allOpds.filter fun o => rHas r o && dScale (rDesc r o) == scVintage).length

/-- VINTAGE without vslot_en, or on more than one operand. -/
def bad09 (r : Record) : Bool := decide (1 < vintageCount r) || (vintageCount r != 0 && !rVslotEn r)

/-- Base and strides of an operand are aligned (R33). -/
def alignOk (d : Desc) : Bool :=
  let w := (dFmt d).bits
  if w == 32 || w == 16 then dBase d % (w / 8) == 0
  else dStride1 d * w % 8 == 0 && dStride2 d * w % 8 == 0 && dStride3 d * w % 8 == 0

/-- Alignment of base, stride or sum_base; sum_base not 0 with summary NONE or MAILBOX. -/
def bad0A (r : Record) : Bool :=
  (anyPresent r fun _ d => !alignOk d) || (if rSummary r ≤ 1 then rSumBase r != 0 else rSumBase r % 64 != 0)

/-- param is in the range of Table 2-6, after the flush of R55. -/
def paramOk (r : Record) : Bool :=
  let x := f32Val (rParam r)
  match rCls r with
  | .normFwd | .normBwd => x.isFin && (x.isZero || !x.neg?)
  | .smax | .lse | .xent => x.isFin && !x.isZero && !x.neg?
  | .dot | .amax | .perm => rParam r == 0
  | _ => true

/-! ### 0x20 to 0x23 -/

/-- D0·D1·D2·D3 > 2^40 (R34). -/
def bad20 (r : Record) : Bool := decide (2 ^ 40 < rD0 r * rD1 r * rD2 r * rD3 r)

/-- Some byte is shared between two lists of areas. -/
def areasMeet (l m : List Area) : Bool := l.any fun a => m.any a.meets

/-- The identical pair of R41. -/
def identical (r : Record) (a b : Desc) : Bool :=
  rCls r != .perm && dBase a == dBase b && dFmtCode a == dFmtCode b && dRow a == dRow b && dStride1 a == dStride1 b &&
  dStride2 a == dStride2 b && dStride3 a == dStride3 b && decide (dScale a ≤ scVintage) && decide (dScale b ≤ scVintage)

/-- Forbidden overlap (R41). -/
def bad22 (r : Record) : Bool :=
  areasMeet (opdAreas r .out0) (opdAreas r .out1) ||
  (match sumArea r with
   | some a => allOpds.any fun o => (opdAreas r o).any a.meets
   | none => false) ||
  [Opd.out0, .out1].any fun o => [Opd.in0, .in1, .in2].any fun i =>
    areasMeet (opdAreas r o) (opdAreas r i) && !identical r (rDesc r o) (rDesc r i)

/-- An output, a scale area or the summary area overlaps the ring of an attached guest. -/
def bad23 (s : State) (r : Record) : Bool := (ringAreas r).any (meetsRing s)

/-! ### 0x30 to 0x41 -/

/-- A DQ_TABLE operand finds its table empty (R93). -/
def bad31 (c : Cellar) (r : Record) : Bool :=
  let em8 := if c.actDq8 then c.emDq8B else c.emDq8A
  let em4 := if c.actDq4 then c.emDq4B else c.emDq4A
  anyPresent r fun _ d => dScale d == scDqTable && (if dFmt d == .int8 then em8 else em4)

/-- gen_expect does not match the current generation (R190). -/
def bad32 (c : Cellar) (r : Record) : Bool := rGenExpect r != 0 && rGenExpect r != (c.gen.extractLsb' 0 8).toNat

/-- The named overlay is open for editing (R186). -/
def bad41 (s : State) (r : Record) : Bool :=
  match s.ovWin with
  | some w => rOverlay r == w.sel.toNat + 1
  | none => false

/-! ### The list -/

/-- The checks that the record alone decides, up to the one of the blend field. -/
def checkShape (r : Record) : Reject :=
  failIf (bad01 r) stBadField 0x01 <|> failIf (bad02 r) stBadField 0x02 <|> failIf (bad03 r) stBadField 0x03 <|>
  failIf (bad04 r) stBadField 0x04 <|> failIf (bad05 r) stBadField 0x05 <|> failIf (bad06 r) stBadField 0x06 <|>
  failIf (bad07 r) stBadField 0x07

/-- The checks that the record alone decides, after the one of the blend field. -/
def checkPlace (r : Record) : Reject :=
  failIf (bad09 r) stBadField 0x09 <|> failIf (bad0A r) stBadField 0x0A <|> failIf (!paramOk r) stBadField 0x0B <|>
  failIf (bad20 r) stBadRange 0x20 <|> failIf (!areasInside r) stBadRange 0x21 <|> failIf (bad22 r) stBadRange 0x22

/-- The checks that the instance's state decides. -/
def checkState (s : State) (r : Record) : Reject :=
  failIf (bad23 s r) stBadRange 0x23 <|> failIf (namesEmpty s.cellar r) stStale 0x30 <|>
  failIf (bad31 s.cellar r) stStale 0x31 <|> failIf (bad32 s.cellar r) stStale 0x32 <|>
  failIf (rVslotEn r && slotOpen s (rVslot r).toNat) stIllegal 0x40 <|> failIf (bad41 s r) stIllegal 0x41

/-- Every check of a record that was read whole, in the order of Table 2-7. -/
def checkItinerary (s : State) (r : Record) : Reject :=
  checkShape r <|> failIf (bad08 s.cellar r) stBadField 0x08 <|> checkPlace r <|> checkState s r

/-! ### The hold of R50 -/

/-- An itinerary in execution or waiting to post pins the slot. -/
def sameSlot (s : State) (r : Record) : Bool := rVslotEn r && slotPinned s (rVslot r).toNat

/-- The written areas of the itineraries that have started and not completed (R50). -/
def heldAreas (s : State) : List Area := (s.entries.map fun e => match e.held with | some r => outAreas r | none => []).flatten

/-- A footprint, scale area or summary area of the itinerary overlaps a written area of one that has not completed. -/
def areaHold (s : State) (r : Record) : Bool := areasMeet (allAreas r) (heldAreas s)

/-- The itinerary waits until one ahead of it completes (R50); its checks are made when the hold ends (R183). -/
def heldBack (s : State) (r : Record) : Bool := areaHold s r || sameSlot s r

end Sys2Proof.Machine
end

