-- ==== Sys2Proof/Machine/Itin.lean ====
section
/-! DEFINITION. Arbitration, the fetch of an itinerary, its checks, its rejection or its start (R29, R40, R47-R51, R104, R109,
R183, R188, R234). -/

namespace Sys2Proof.Machine

/-! ### Arbitration (R49) -/

/-- The unit has room to start an itinerary (R50): at most two in execution, the one ahead with its last row dispatched. -/
def hasRoom (s : State) : Bool :=
  match s.ctx0, s.ctx1 with
  | none, none => true
  | some c, none => dispatchedAll c
  | none, some c => dispatchedAll c
  | some _, some _ => false

/-- A guest whose next entry may start. -/
def eligible (s : State) (g : GuestId) : Bool :=
  let x := s.guest g
  (x.state == .active || x.state == .draining) && x.started != x.tail

/-- Arbitration starts itineraries: in RUN, and not while twin mode is requested and not yet active (R180, R234). -/
def arbOpen (s : State) : Bool := s.unit == .run && (!s.twin.enable || s.twin.active)

/-- The guest that arbitration selects, with the pointer and the credit before the start. -/
def arbitrate (s : State) : Option (GuestId × BitVec 4) :=
  if eligible s s.arbPtr && s.arbCredit != 0 then some (s.arbPtr, s.arbCredit)
  else
    (((List.range 64).map fun k => s.arbPtr + BitVec.ofNat 6 (k + 1)).find? (eligible s)).map fun g =>
      (g, let w := (s.guest g).weight; if w == 0 then 1 else w)

/-- A start, a rejection or a discard consumes one credit, and the started index advances. -/
def consume (s : State) (g : GuestId) : State :=
  (({ s with arbCredit := s.arbCredit - 1, cur := none }).updGuest g fun x => { x with started := x.started + 1, record := none })

/-! ### Discards and rejections (R40, R47) -/

/-- An entry that never starts. -/
def deadEntry (g : GuestId) (index : BitVec 16) (cls : BitVec 4) (status : BitVec 3) (reason : BitVec 8) : Entry :=
  { guest := g, index := index, cls := cls, intr := false, summIntr := false, stopover := false, status := status, reason := reason,
    ctx := none, pin := none, gov := none, held := none }

/-- The class that the COMPLETE event and the twin header show for an entry whose record is not used: a free value (log 38). -/
def unknownClass (s : State) : BitVec 4 := BitVec.ofNat 4 (Config.freeNat s.free)

/-- The next entry of a discarding guest completes unread, with reason 0x50 (R47). -/
def discardNext (s : State) (g : GuestId) : State :=
  let e := deadEntry g (s.guest g).started (unknownClass s) stDetached 0x50
  consume { s with free := s.free + 1, entries := s.entries ++ [e] } g

/-- The argument of itinerary codes (R197). -/
def itArg (g : GuestId) (index : BitVec 16) : BitVec 20 := BitVec.ofNat 20 (g.toNat * 2 ^ 14 + index.toNat % 2 ^ 14)

/-- A rejection: logged on page 1; the entry waits for its turn to complete. Its completion bits act, except under 0x0F (R51). -/
def rejectNext (s : State) (g : GuestId) (f : Fetched) (status : BitVec 3) (reason : BitVec 8) : State :=
  let i := (s.guest g).started
  let e := if reason == 0x0F then deadEntry g i (unknownClass s) status reason
    else { deadEntry g i (f.bytes.extractLsb' 0 4) status reason with intr := rIntr f.bytes, stopover := rStopover f.bytes }
  let s := logEvent s 1 reason status (itArg g i)
  consume { s with free := s.free + 1, entries := s.entries ++ [e] } g

/-! ### Start (R50, R104, R108, R109, R183, R188) -/

/-- The context of an itinerary: base values, the overlay's writes, the pinned banks and generation, the slot as found. -/
def formContext (s : State) (g : GuestId) (index : BitVec 16) (r : Record) : Ctx :=
  let slot := vAt s.vint.slots (rVslot r)
  let seed : BitVec 8 := (recPolicy slot).extractLsb' 16 8
  let base : Ctx :=
    { it := r, guest := g, index := index, smCfg := s.smCfg, tsCtrl := s.tasting.ctrl, tsConvThr := s.tasting.convThr,
      tsFnThr := s.tasting.fnThr, trCtrl := s.trace.ctrl, gen := s.cellar.gen, bankBlend := s.cellar.actBlend,
      bankDq8 := s.cellar.actDq8, bankDq4 := s.cellar.actDq4, vRead := recVRead slot, vWrite := recVWrite slot,
      policy := recPolicy slot, slotEmpty := recEmpty slot, vOut := if recEmpty slot then seed else recVWrite slot,
      bitmap := vAt s.vint.maps ((rVslot r).extractLsb' 4 6), progress := 0, storing := true, nextRow := 0, rowsDone := 0,
      tally := .zero, icask := .clear, rowMax := none, emptyRows := 0, cap := none, nonfin := 0, preCap := none, bam := [],
      saved := [], taste := .zero, noted := [], taken := [], before := [], covered := [], wrote := [] }
  let c := if rOverlay r == 0 then base else applyOverlay base (vAt s.overlays (BitVec.ofNat 3 (rOverlay r - 1)))
  { c with storing := !twoEval c }

/-- A VINTAGE input that names an EMPTY slot (R109). -/
def coldRead (c : Ctx) : Bool :=
  c.slotEmpty && [Opd.in0, .in1, .in2].any fun o => rHas c.it o && dScale (rDesc c.it o) == scVintage

/-- UM_GS_EXEC of a context (Table 15-5). -/
def execWord (c : Ctx) : Word :=
  BitVec.ofNat 32 (1 + rOverlay c.it * 2 ^ 4 + c.guest.toNat * 2 ^ 8 + (c.it.extractLsb' 0 4).toNat * 2 ^ 16 +
    (c.gen.extractLsb' 0 8).toNat * 2 ^ 20)

/-- UM_GS_EXEC and UM_GS_EXIDX written for a context. -/
def showExec (s : State) (b : Bool) (c : Ctx) : State :=
  if b then { s with exec1 := execWord c, exIdx1 := c.index } else { s with exec0 := execWord c, exIdx0 := c.index }

/-- The itinerary starts in a free context. -/
def startNext (s : State) (g : GuestId) (r : Record) : State :=
  let b := s.ctx0.isSome
  let c := formContext s g (s.guest g).started r
  let e : Entry :=
    { guest := g, index := c.index, cls := r.extractLsb' 0 4, intr := rIntr r, summIntr := rSummIntr r, stopover := rStopover r,
      status := stOk, reason := 0, ctx := some b, pin := if rVslotEn r then some (rVslot r) else none, gov := some (c.trCtrl, b),
      held := some r }
  let s := showExec (s.setCtx b (some c)) b c
  let s := if coldRead c then { s with vint := { s.vint with coldrd := satAdd s.vint.coldrd 1 } } else s
  let s := consume { s with entries := s.entries ++ [e], power := { s.power with recent := true, idleTicks := 0 } } g
  let s := traceEvent s c.trCtrl 0
    ⟨s.trace.ticks, trWord1 0x01 (if b then 1 else 0) g.toNat,
     BitVec.ofNat 32 (c.index.toNat + e.cls.toNat * 2 ^ 16 + rOverlay r * 2 ^ 20), c.gen⟩
  updReq s

/-! ### ITINERARY_FETCH -/

/-- Address of the next entry to start (R42). -/
def nextAddr (x : Guest) : Nat := x.base.toNat + x.started.toNat % 2 ^ x.log2Size.toNat * 128

/-- The record of the selected guest, read once; a poisoned segment is noted (R18, R19, R29). -/
def readNext (s : State) (g : GuestId) : State :=
  let x := s.guest g
  match x.record with
  | some _ => s
  | none =>
    let a := nextAddr x
    let bad := [a / 64, a / 64 + 1].filter s.poison.contains
    (bad.foldl notePoison s).updGuest g fun x =>
      { x with record := some ⟨BitVec.ofNat 1024 (memNat s.mem a 128), bad != []⟩ }

/-- ITINERARY_FETCH (discards: log 65): arbitration selects a guest at an itinerary boundary, and its next record is read (R29, R49). A
discarding guest's entry completes without being read (R47). -/
def execItineraryFetch (s : State) : Out :=
  if !arbOpen s || s.cur.isSome || !hasRoom s then .next s
  else
    match arbitrate s with
    | none => .next s
    | some (g, c) =>
      let s := { s with arbPtr := g, arbCredit := c, cur := some g }
      if (s.guest g).discard then .next (discardNext s g)
      else if scratchSize < nextAddr (s.guest g) + 128 then .fault .outsideScratchpad
      else .next (readNext s g)

/-! ### ITINERARY_CHECK -/

/-- The fetched record is judged and starts or is rejected. -/
def judgeNext (s : State) (g : GuestId) (f : Fetched) : State :=
  if f.poisoned then rejectNext s g f stBadField 0x0F
  else if heldBack s f.bytes then s
  else
    match checkItinerary s f.bytes with
    | some (status, reason) => rejectNext s g f status reason
    | none => startNext s g f.bytes

/-- ITINERARY_CHECK: the selected guest's itinerary is checked, then starts or is rejected (R40). A guest that has left ACTIVE and
DRAINING gives up its turn; one that discards completes the entry with reason 0x50. -/
def execItineraryCheck (s : State) : Out :=
  if !arbOpen s || !hasRoom s then .next s
  else
    match s.cur with
    | none => .next s
    | some g =>
      if !eligible s g then .next { s with cur := none }
      else if (s.guest g).discard then .next (discardNext s g)
      else
        match (s.guest g).record with
        | none => .next { s with cur := none }
        | some f => .next (judgeNext s g f)

end Sys2Proof.Machine
end

