-- ==== Sys2Proof/Machine/Complete.lean ====
section
/-! DEFINITION. The completion of an itinerary in the order of R51, and its end by the watchdog (R47, R48, R51, R105-R107, R118,
R192-R193, R198-R204, R235). -/

namespace Sys2Proof.Machine

/-! ### Summary record (R148, R201) -/

/-- A count as 32 bits, saturating. -/
def satWord (n : Nat) : Word := BitVec.ofNat 32 (min n max32)

/-- The record of Table 12-6. -/
def summaryRecord (e : Entry) (c : Ctx) : List Word :=
  [BitVec.ofNat 32 (e.index.toNat + e.cls.toNat * 2 ^ 16 + e.guest.toNat * 2 ^ 20), c.tally.flagSet.zeroExtend 32,
   round32 (readMax c.rowMax), round32 c.icask.value, satWord c.tally.nan, satWord c.tally.ovf, satWord c.emptyRows,
   satWord (c.tally.count .permRange)]

/-- Step 2: the scratchpad record with its 32 zero bytes, and the mailbox (R202, R204). -/
def postSummary (s : State) (e : Entry) (c : Ctx) : State :=
  let w := summaryRecord e c
  let s := if 2 ≤ rSummary c.it then
    { s.guardReads (areaWrites ⟨rSumBase c.it, rSumBase c.it + 64⟩) with
        mem := memPutWords s.mem (rSumBase c.it) (w ++ List.replicate 8 0) } else s
  if rSummary c.it == 0 then s
  else s.updGuest e.guest fun x => { x with mbox := Vector.ofFn fun i => w.getD i.val 0 }

/-! ### Vintage update and tasting merge (R106, R118) -/

/-- The itinerary has a VINTAGE output. -/
def vintageOut (c : Ctx) : Bool := (outsOf c.it).any fun o => dScale (rDesc c.it (outOpd o)) == scVintage

/-- It updates its slot: a VINTAGE output, or the capture of AMAX (R105, R106). -/
def updatesSlot (c : Ctx) : Bool := rVslotEn c.it && (vintageOut c || amaxCaptures c.it)

/-- A capture enters the history (R106). -/
def recPush (r : SlotRec) (a : XVal) : SlotRec :=
  let n := (recNewest r + 1) % 16
  let r := recPutHist r n (historyCode a)
  vPut r 0 ((vAt r 0 &&& 0xFFFFF0E0#32) ||| BitVec.ofNat 32 (min (recCount r + 1) 16 + n * 2 ^ 8))

/-- The four steps of R106 on a slot. -/
def recUpdate (r : SlotRec) (c : Ctx) : SlotRec :=
  let r := vPut r 3 (satAdd (vAt r 3) c.nonfin)
  let pushed := if (recPolicy r).getLsbD 14 then none else c.cap
  let r := match pushed with | some a => recPush r a | none => r
  let r := if vintageOut c then recPutExps r (recVWrite r) c.vOut else r
  if pushed.isSome then recChoose r else r

/-- Step 3: the slot's update. -/
def postVintage (s : State) (c : Ctx) : State :=
  if updatesSlot c then
    { s with vint := { s.vint with slots := vPut s.vint.slots (rVslot c.it) (recUpdate (vAt s.vint.slots (rVslot c.it)) c) } }
  else s

/-- Step 3: the tasting record enters the guest's and the slot's, and the thresholds are judged. -/
def postTaste (s : State) (c : Ctx) : State :=
  let t := s.tasting
  let own := Taste.merge .zero c.taste
  let s := { s with tasting := { t with
    guests := vPut t.guests c.guest ((vAt t.guests c.guest).merge c.taste),
    slots := if rVslotEn c.it then vPut t.slots (rVslot c.it) ((vAt t.slots (rVslot c.it)).merge c.taste) else t.slots } }
  let s := if c.tsConvThr.toNat < own.convMax then setCause s 14 0 else s
  if c.tsFnThr.toNat < own.fnMax then setCause s 14 1 else s

/-! ### Flags, status, head (R192, R193, R196, R251, R253) -/

/-- Step 4: flags and counters. -/
def postFlags (s : State) (g : GuestId) (t : Tally) : State :=
  let s := s.updGuest g fun x => { x with flags := x.flags ||| t.flagSet }
  let s := raiseInstance s t.flagSet t.ev
  { s with exc := { s.exc with nanCnt := satAdd s.exc.nanCnt t.nan, ovfCnt := satAdd s.exc.ovfCnt t.ovf } }

/-- Step 4 of an itinerary that the watchdog ended: WATCHDOG alone, and page 8's log and cause (R199). -/
def postWatchdog (s : State) (e : Entry) : State :=
  let s := s.updGuest e.guest fun x => { x with flags := x.flags ||| (1#12 <<< Flag.watchdog.bit) }
  let s := raiseEvent s .watchdog
  setCause (logEvent s 8 0x51 stDetached (itArg e.guest e.index)) 8 2

/-- UM_GS_LAST of a completion; UM_GS_FIRST adds its valid bit. -/
def statusWord (e : Entry) : Word :=
  BitVec.ofNat 32 (e.status.toNat + e.reason.toNat * 2 ^ 8 + e.index.toNat * 2 ^ 16)

/-- Step 5: status registers and head. A discard (0x50) reaches UM_GS_LAST only (R197, log 84). -/
def postStatus (s : State) (e : Entry) : State :=
  s.updGuest e.guest fun x =>
    { x with last := statusWord e, head := x.head + 1,
             first := if e.status != stOk && e.reason != 0x50 && !x.first.getLsbD 7 then statusWord e ||| 0x80#32 else x.first }

/-- The COMPLETE event. -/
def traceComplete (s : State) (e : Entry) (flags : BitVec 12) : State :=
  let gov := match e.gov with | some x => x.1 | none => s.trace.ctrl
  let ctx := match e.gov with | some x => if x.2 then 1 else 0 | none => 3
  traceEvent s gov 0 ⟨s.trace.ticks, trWord1 0x02 ctx e.guest.toNat,
    BitVec.ofNat 32 (e.index.toNat + e.cls.toNat * 2 ^ 16 + e.status.toNat * 2 ^ 20 + e.reason.toNat * 2 ^ 24), flags.zeroExtend 32⟩

/-- The context is free again, and its engines have no itinerary (R258); the valid bit of UM_GS_EXEC falls and its other fields
stay (R251). -/
def freeCtx (s : State) (b : Bool) : State :=
  let s := { s with engines := s.engines.map fun x : Engine => x.leave b }
  let s := s.setCtx b none
  if b then { s with exec1 := s.exec1 &&& 0xFFFFFFFE#32 } else { s with exec0 := s.exec0 &&& 0xFFFFFFFE#32 }

/-! ### Step 6 and the guest's state (R47, R48, R51, R202) -/

/-- The condition of UM_SM_CFG.cond_mask. -/
def summaryWanted (c : Ctx) : Bool :=
  let m := c.smCfg
  bitsOf m 0 4 == 0 || (m.getLsbD 0 && c.tally.nan != 0) || (m.getLsbD 1 && c.tally.ovf != 0) ||
  (m.getLsbD 2 && c.emptyRows != 0) || (m.getLsbD 3 && c.tally.count .permRange != 0)

/-- Step 6: DONE and summary-ready. -/
def postEvents (s : State) (e : Entry) (c : Option Ctx) : State :=
  let s := if e.intr then setDone s e.guest else s
  match c with
  | some c =>
    if e.summIntr && rSummary c.it != 0 && summaryWanted c then { s with ready := s.ready ||| (1#64 <<< e.guest.toNat) } else s
  | none => s

/-- The twin guest's completion appends its segment (R235). -/
def postTwin (s : State) (e : Entry) (c : Option Ctx) (flags : BitVec 12) : State :=
  if twinGuest s e.guest then { s with twin := { s.twin with stream := s.twin.stream ++ segment s e c flags } } else s
where
  /-- The twin stream carries the guest. -/
  twinGuest (s : State) (g : GuestId) : Bool := s.twin.active && s.twin.guest == g

/-- The guest detaches at its tail, or pauses. -/
def settleGuest (s : State) (e : Entry) : State :=
  let x := s.guest e.guest
  if x.state == .draining then (if x.head == x.tail then finishDetach s e.guest else s)
  else if x.state == .active && (e.stopover || (e.status != stOk && x.stopOnReject)) then setGuestState s e.guest .paused
  else s

/-! ### Posting -/

/-- The guest's oldest entry. -/
def oldest (s : State) (g : GuestId) : Option Entry := s.entries.find? (·.guest == g)

/-- The entry may post: what it ran is finished, its writes accepted (R15), and the twin FIFO has room (R27). -/
def postable (s : State) (e : Entry) : Bool :=
  s.running && !(twinFull s && s.twin.guest == e.guest) &&
  match e.ctx with
  | none => true
  | some b =>
    match s.ctx b with
    | some c => ctxDone c && s.wfifo.all fun u => u.ctx != b
    | none => false

/-- Steps 4 to 6 and what follows them, for a completion whose flag set is known. -/
def postTail (s : State) (e : Entry) (c : Option Ctx) (flags : BitVec 12) : State :=
  let s := postTwin s e c flags
  let s := traceComplete (postStatus s e) e flags
  let s := match e.ctx with | some b => freeCtx s b | none => s
  let s := { s with entries := s.entries.eraseP (·.guest == e.guest) }
  updReq (drainToIdle (settleGuest (postEvents s e c) e))

/-- The completion of an itinerary that ran to its end (R51). -/
def postOk (s : State) (e : Entry) (c : Ctx) : State :=
  let s := postSummary s e c
  let s := postTaste (postVintage s c) c
  postTail (postFlags s e.guest c.tally) e (some c) c.tally.flagSet

/-- The completion of an entry that did not. -/
def postDead (s : State) (e : Entry) : State :=
  if e.reason == 0x51 then postTail (postWatchdog s e) e none (1#12 <<< Flag.watchdog.bit) else postTail s e none 0

/-- One completion. -/
def post (s : State) (e : Entry) : Out :=
  match e.ctx with
  | none => .next (postDead s e)
  | some b =>
    match s.ctx b with
    | none => .next s
    | some c => if areasInside c.it then .next (postOk s e c) else .fault .outsideScratchpad

/-- ITINERARY_COMPLETE: guest g's oldest started entry posts, when it is finished (R51). -/
def execItineraryComplete (g : GuestId) (s : State) : Out :=
  match oldest s g with
  | none => .next s
  | some e => if postable s e then post s e else .next s

/-! ### The watchdog (R198, R199) -/

/-- limit_ticks of R198. -/
def limitTicks (s : State) (g : GuestId) : Nat := (s.guest g).limitUs.toNat * s.power.osc.toNat * 2000 / 2 ^ 20

/-- The watchdog of a context fires. -/
def wdogDue (s : State) (c : Ctx) : Bool :=
  (s.unit == .run || s.unit == .drain) && (s.guest c.guest).limitUs != 0 && decide (limitTicks s c.guest ≤ c.progress)

/-- The itinerary of a context ends: what the FIFO holds is issued, its outputs become unspecified, its engines and its context are
free, and its entry carries DETACHED, 0x51. It still waits for its turn to post. -/
def wdogEnd (s : State) (b : Bool) (c : Ctx) : State :=
  let s := traceEvent s c.trCtrl 0 ⟨s.trace.ticks, trWord1 0x03 (if b then 1 else 0) c.guest.toNat,
    BitVec.ofNat 32 (c.index.toNat + (c.it.extractLsb' 0 4).toNat * 2 ^ 16), BitVec.ofNat 32 (limitTicks s c.guest)⟩
  let mine := s.wfifo.filter fun u => u.ctx == b
  let s := issueAll { s with wfifo := s.wfifo.filter fun u => u.ctx != b } mine
  let s := scrambleAreas (s.guardReads (((outAreas c.it).map inScratch).flatMap areaWrites)) (outAreas c.it)
  let s := { s with
    entries := s.entries.map fun e =>
      if e.ctx == some b then { e with status := stDetached, reason := 0x51, summIntr := false, ctx := none } else e }
  freeCtx s b

/-- WATCHDOG: the watchdog of context c fires; the completion posts at once when it is the guest's oldest, and later otherwise. -/
def execWatchdog (b : Bool) (s : State) : Out :=
  match s.ctx b with
  | none => .next s
  | some c =>
    if !wdogDue s c then .next s
    else
      let s := wdogEnd s b c
      match oldest s c.guest with
      | some e => if e.reason == 0x51 && postable s e then post s e else .next (drainToIdle s)
      | none => .next (drainToIdle s)

end Sys2Proof.Machine
end

