-- ==== Sys2Proof/Machine/Regs.lean ====
section
/-! DEFINITION. The register map: what every register reads and where every register write goes (R3, R20-R23, R179-R180, R239-R252,
R258). -/

namespace Sys2Proof.Machine

/-! ### Small helpers -/

/-- A word from (bit position, value) pairs; every value fits its field. -/
def fields (l : List (Nat × Nat)) : Word := BitVec.ofNat 32 (l.foldl (fun n x => n + x.2 * 2 ^ x.1) 0)

/-- 0 or 1. -/
def b01 (b : Bool) : Nat := if b then 1 else 0

/-- Thirty-two truth values as a word, bit k first. -/
def bits32 (f : Nat → Bool) : Word := BitVec.ofNat 32 ((List.range 32).foldl (fun n k => n + b01 (f k) * 2 ^ k) 0)

/-- The offset is in an array of n words from a base. -/
def inArray (o base n : Nat) : Bool := decide (base ≤ o) && decide (o < base + 4 * n) && o % 4 == 0

/-! ### The common header (R241-R246) -/

/-- ISTAT with the derived bits of pages 2 and 9 (Table 12-2). -/
def istatOf (s : State) (p : PageId) : BitVec 16 :=
  let i := (vAt s.hdr p).istat
  if p == 2 && s.done != 0 then i ||| 1#16
  else if p == 9 && s.ready != 0 then i ||| 1#16
  else i

/-- UM_PAGE_STAT.irq (R245). -/
def pageIrq (s : State) (p : PageId) : Bool := istatOf s p &&& (vAt s.hdr p).ien != 0

/-- The four interrupt lines (R23, Table 1-6). -/
inductive Line where
  | done | error | health | summary
deriving DecidableEq, Repr

/-- The pages that feed a line. -/
def Line.pages : Line → List PageId
  | .done => [2]
  | .error => [0, 1, 3, 4, 5, 6, 7, 8, 13]
  | .health => [10, 11, 12, 14, 15]
  | .summary => [9]

/-- The level of a line. -/
def lineUp (s : State) (l : Line) : Bool := l.pages.any (pageIrq s)

/-- Recording of trace events is on: in the base value or in a context, and not stopped. -/
def recording (s : State) : Bool :=
  !s.trace.stopped && (s.trace.ctrl.getLsbD 0 || (match s.ctx0 with | some c => c.trCtrl.getLsbD 0 | none => false) ||
    (match s.ctx1 with | some c => c.trCtrl.getLsbD 0 | none => false))

/-- UM_PAGE_STAT.busy (Table 15-3). A transfer or save that FAULT stopped keeps its page busy, as it keeps its own busy bit (R205, log 106). -/
def pageBusy (s : State) (p : PageId) : Bool :=
  match p.toNat with
  | 0 => s.unit == .reset || s.unit == .calibrate || s.unit == .bist
  | 1 => s.guests.any fun x => x.state == .draining
  | 2 => s.inExec != 0
  | 3 => s.ovWin.isSome
  | 4 => s.cellar.stBlend || s.cellar.stDq8 || s.cellar.stDq4
  | 6 => s.entries.any fun e => e.pin.isSome
  | 7 => s.vint.window.isSome || s.vint.xfer.isSome
  | 10 => s.power.rvkPace || s.power.guardPace || s.power.protoPace
  | 11 => s.health.warn != 0
  | 12 => s.unit == .bist
  | 13 => s.twin.active
  | 14 => s.tasting.save.isSome
  | 15 => recording s || s.trace.stepping
  | _ => false

/-- UM_PAGE_CAP (Table 15-3). -/
def pageCap (p : PageId) : Word :=
  match p.toNat with
  | 0 => 0x00124010 | 1 => 0x0000FC40 | 2 => 0x00000040 | 3 => 0x00004008 | 4 => 0x0000FF07 | 5 => 0x00000200 | 6 => 0x00400400
  | 7 => 0x00008010 | 8 => 0x0000000C | 9 => 0x00004008 | 10 => 0x0000010C | 11 => 0x00000104 | 12 => 0x00000FFF | 13 => 0x00000040
  | 14 => 0x00000440 | _ => 0x00000880

/-- UM_PAGE_ERRLOG. -/
def errlogWord (h : PageHdr) : Word :=
  fields [(0, h.errCode.toNat), (8, h.errStatus.toNat), (11, b01 h.errValid), (12, h.errArg.toNat)]

/-- A read of the header. -/
def readHeader (s : State) (p : PageId) (o : Nat) : Word :=
  let h := vAt s.hdr p
  match o with
  | 0x000 => fields [(0, p.toNat), (4, Config.instanceNo.toNat), (16, 0x554D)]
  | 0x004 => fields [(0, 1), (8, 1), (16, Config.stepping.toNat)]
  | 0x008 => pageCap p
  | 0x010 => fields [(0, b01 (pageIrq s p)), (1, b01 h.errValid), (2, b01 (pageBusy s p))]
  | 0x014 => h.ien.zeroExtend 32
  | 0x018 => (istatOf s p).zeroExtend 32
  | 0x01C => errlogWord h
  | 0x020 => h.errCnt
  | 0x024 => h.scratch
  | _ => 0

/-! ### Reads by page (R239, R240, R250) -/

/-- UM_GSTAT (Table 11-6). -/
def gstatWord (s : State) : Word :=
  fields [(0, s.unit.code), (4, b01 s.retention), (5, s.inExec), (8, s.resetCause.toNat), (16, s.faultCause.toNat)]

/-- A half of a 64-bit register. -/
def half (v : BitVec 64) (hi : Bool) : Word := v.extractLsb' (if hi then 32 else 0) 32

/-- UM_GS_ATT (R251). -/
def attached (s : State) (k : Nat) : Bool := (s.guest (BitVec.ofNat 6 k)).state != .detached

/-- Page 1 (Tables 2-8 and 15-5). -/
def readPage1 (s : State) (o : Nat) : Word :=
  if o == 0x040 then fields [(0, s.arbPtr.toNat), (8, s.arbCredit.toNat)]
  else if inArray o 0x100 512 then
    let x := s.guest (BitVec.ofNat 6 ((o - 0x100) / 0x20))
    match (o - 0x100) % 0x20 with
    | 0x00 => x.base.zeroExtend 32
    | 0x04 => fields [(0, x.log2Size.toNat), (8, x.weight.toNat), (16, b01 x.stopOnReject)]
    | 0x08 => x.limitUs.zeroExtend 32
    | 0x0C => x.tail.zeroExtend 32
    | _ => 0
  else 0

/-- Page 2 (Tables 2-8 and 15-5). -/
def readPage2 (s : State) (o : Nat) : Word :=
  if inArray o 0x100 256 then
    let x := s.guest (BitVec.ofNat 6 ((o - 0x100) / 0x10))
    match (o - 0x100) % 0x10 with
    | 0x0 => fields [(0, x.state.code), (16, (x.tail - x.head).toNat)]
    | 0x4 => fields [(0, x.head.toNat), (16, x.started.toNat)]
    | 0x8 => x.last
    | _ => x.first
  else
    match o with
    | 0x040 => half s.done false
    | 0x044 => half s.done true
    | 0x048 => bits32 fun k => attached s k
    | 0x04C => bits32 fun k => attached s (32 + k)
    | 0x050 => s.exec0
    | 0x054 => s.exec1
    | 0x058 => fields [(0, s.exIdx0.toNat), (16, s.exIdx1.toNat)]
    | _ => 0

/-- Page 3 (Table 11-8). -/
def readPage3 (s : State) (o : Nat) : Word :=
  if inArray o 0x080 8 then (vAt s.overlays (BitVec.ofNat 3 ((o - 0x080) / 4))).count.zeroExtend 32
  else if inArray o 0x200 128 then
    match s.ovWin with
    | some w => vAt w.copy.ents (BitVec.ofNat 7 ((o - 0x200) / 4))
    | none => 0
  else
    match o with
    | 0x040 => s.ovSel.zeroExtend 32
    | 0x044 => fields [(0, b01 s.ovWin.isSome), (4, match s.ovWin with | some w => w.sel.toNat | none => 0), (8, s.ovBad.toNat)] |||
        (bits32 fun k => decide (16 ≤ k) && decide (k < 24) && overlayHeld s (k - 16))
    | 0x048 => match s.ovWin with | some w => w.copy.count.zeroExtend 32 | none => 0
    | _ => 0

/-- UM_CT_STAT.empty: the active banks (Table 11-10). -/
def emptyBits (c : Cellar) : Nat :=
  b01 (blendEmptyAll c) + 2 * b01 (if c.actDq8 then c.emDq8B else c.emDq8A) + 4 * b01 (if c.actDq4 then c.emDq4B else c.emDq4A)

/-- Page 4 (Table 11-10). -/
def readPage4 (s : State) (o : Nat) : Word :=
  let c := s.cellar
  match o with
  | 0x040 => c.gen
  | 0x044 => fields [(0, c.selTable.toNat), (4, c.selWindow.toNat), (8, b01 c.selView)]
  | 0x04C => stagingBits c ||| fields [(16, emptyBits c)]
  | 0x050 => bits32 fun k => if k < 16 then activeBank c k else inactiveBusy s (k - 16)
  | _ => 0

/-- Page 6 (Table 6-3). -/
def readPage6 (s : State) (o : Nat) : Word :=
  let v := s.vint
  if inArray o 0x080 32 then bits32 fun k => !recEmpty (v.slot ((o - 0x080) * 8 + k))
  else if inArray o 0x100 32 then bits32 fun k => slotPinned s ((o - 0x100) * 8 + k)
  else
    match o with
    | 0x040 => fields [(0, v.rangeFirst.toNat), (16, v.rangeLast.toNat)]
    | 0x044 => v.policy
    | 0x04C => v.coldrd
    | _ => 0

/-- Page 7 (Table 6-4). -/
def readPage7 (s : State) (o : Nat) : Word :=
  let v := s.vint
  if inArray o 0x100 16 then match v.window with | some w => vAt w.record (BitVec.ofNat 4 ((o - 0x100) / 4)) | none => 0
  else if inArray o 0x200 128 then match v.window with | some w => mapWord w.map ((o - 0x200) / 4) | none => 0
  else
    match o with
    | 0x040 => v.ctrlSlot.zeroExtend 32
    | 0x044 => fields [(0, b01 v.window.isSome), (1, b01 v.xfer.isSome), (16, match v.window with | some w => w.slot.toNat | none => 0)]
    | 0x048 => v.xbase.zeroExtend 32
    | 0x04C => fields [(0, v.xfirst.toNat), (10, v.xcountM1.toNat), (20, v.xop.toNat)]
    | _ => 0

/-- Page 8 (Table 12-10). -/
def readPage8 (s : State) (o : Nat) : Word :=
  let x := s.exc
  if inArray o 0x080 12 then vAt x.evCnt (BitVec.ofNat 4 ((o - 0x080) / 4))
  else if inArray o 0x100 64 then (s.guest (BitVec.ofNat 6 ((o - 0x100) / 4))).flags.zeroExtend 32
  else
    match o with
    | 0x040 => x.flags.zeroExtend 32
    | 0x044 => x.fmask.zeroExtend 32
    | 0x048 => x.nanCnt
    | 0x04C => x.ovfCnt
    | 0x050 => x.sramCnt
    | 0x054 => fields [(0, x.sramArray.toNat), (8, x.sramIndex.toNat), (31, b01 x.sramValid)]
    | _ => 0

/-- Page 9 (Table 12-7). -/
def readPage9 (s : State) (o : Nat) : Word :=
  if inArray o 0x800 512 then
    vAt (s.guest (BitVec.ofNat 6 ((o - 0x800) / 0x20))).mbox (BitVec.ofNat 3 ((o - 0x800) % 0x20 / 4))
  else
    match o with
    | 0x040 => s.smCfg
    | 0x044 => half s.ready false
    | 0x048 => half s.ready true
    | _ => 0

/-- UM_PW_STAT (Table 13-5). -/
def pwStatWord (p : Power) : Word :=
  fields [(0, p.vack.toNat), (8, b01 p.sprintReq), (9, b01 p.granted), (10, b01 p.rvkPace), (11, b01 p.guardPace),
    (12, b01 p.protoPace), (13, b01 p.clamped), (14, b01 p.accountOk), (15, b01 p.hot), (16, b01 p.vsprint), (17, b01 p.holdoff)]

/-- Page 10 (Table 13-5). -/
def readPage10 (s : State) (o : Nat) : Word :=
  let p := s.power
  match o with
  | 0x040 => bit1 p.sprintEn
  | 0x044 => pwStatWord p
  | 0x048 => p.osc.zeroExtend 32
  | 0x04C => p.nombeats.zeroExtend 32
  | 0x050 => fields [(0, p.mgr.toNat), (16, p.eff.toNat)]
  | 0x054 => p.cap.zeroExtend 32
  | 0x058 => p.iest.zeroExtend 32
  | 0x05C => p.tj.zeroExtend 32
  | 0x060 => p.tthr.zeroExtend 32
  | 0x064 => p.sprUsed
  | 0x068 => p.sprLim
  | 0x06C => p.revCnt
  | 0x070 => p.proto
  | 0x074 => half p.beats false
  | 0x078 => p.beatHi
  | _ => 0

/-- UM_HL_REMAIN as it reads: no estimate before the ledger is restored, also when its life is used up, and 0 once it is used up after
that (R229; that ledger_ok = 0 wins is log 53). -/
def remainRead (h : Health) : Word :=
  if !h.ledgerOk then 0xFFFFFFFF#32 else if h.life.toNat ≤ h.used.toNat then 0 else h.remain

/-- Page 11 (Table 14-4). -/
def readPage11 (s : State) (o : Nat) : Word :=
  let h := s.health
  if inArray o 0x040 16 then
    let k := vAt h.can (BitVec.ofNat 4 ((o - 0x040) / 4))
    fields [(0, k.reading.toNat), (8, k.low.toNat), (16, k.expect.toNat)]
  else
    match o with
    | 0x080 => h.cwarn.zeroExtend 32
    | 0x084 => fields [(0, h.warn.toNat), (16, h.lost.toNat)]
    | 0x088 => h.used
    | 0x08C => h.life
    | 0x090 => h.ravg.zeroExtend 32
    | 0x094 => remainRead h
    | 0x098 => h.lowThr
    | 0x09C => bit1 h.ledgerOk
    | _ => 0

/-- Page 12 (Table 14-5). -/
def readPage12 (s : State) (o : Nat) : Word :=
  let t := s.test
  if inArray o 0x080 16 then (t.edge.extractLsb' (o - 0x080) 4).zeroExtend 32
  else
    match o with
    | 0x040 => fields [(0, t.guard.toNat), (8, t.sweepMax.toNat)]
    | 0x044 => fields [(0, t.vreqCode.toNat), (8, b01 t.vreqEn)]
    | 0x048 => t.biSel.zeroExtend 32
    | 0x04C => fields [(0, t.biPass.toNat), (8, t.biFail.toNat)]
    | 0x050 => t.biInfo
    | 0x054 => t.biTicks
    | _ => 0

/-- Page 13 (Table 14-6). -/
def readPage13 (s : State) (o : Nat) : Word :=
  let t := s.twin
  match o with
  | 0x040 => fields [(0, b01 t.enable), (8, t.guest.toNat), (16, b01 t.onMismatch)]
  | 0x044 => fields [(0, (Config.instanceNo ^^^ 1#3).toNat), (4, b01 t.active), (8, min t.own.length 64), (16, min t.part.length 64)]
  | 0x048 => fields [(0, t.nextTx.toNat), (16, t.nextCmp.toNat)]
  | 0x04C => fields [(0, t.missSeq.toNat), (31, b01 t.missValid)]
  | 0x050 => t.misCnt
  | 0x054 => t.uncmp
  | 0x058 => half t.hash false
  | 0x05C => t.hashHi
  | _ => 0

/-- Word i of the selected tasting record, words 5 and 9 as captured (R249); 0 in every word for a guest above 63 (R119). -/
def readTaste (t : Tasting) (i : Nat) : Word :=
  match selectedTaste t with
  | none => 0
  | some r => if i == 5 then t.rec5 else if i == 9 then t.rec9 else r.words.getD i 0

/-- Page 14 (Table 6-7). -/
def readPage14 (s : State) (o : Nat) : Word :=
  let t := s.tasting
  if inArray o 0x100 16 then readTaste t ((o - 0x100) / 4)
  else
    match o with
    | 0x040 => (t.ctrl &&& 0x101#32) ||| (BitVec.ofNat 32 (min 16 (bitsOf t.ctrl 1 5).toNat) <<< 1)
    | 0x044 => t.convThr
    | 0x048 => t.fnThr
    | 0x04C => fields [(0, t.selIndex.toNat), (16, b01 t.selKind)]
    | 0x054 => t.saveBase.zeroExtend 32
    | 0x058 => bit1 t.save.isSome
    | _ => 0

/-- UM_DBG_ENG.phase (Table 15-9): the work of the engine's last beat, or 7 where HOLD or FAULT has stopped it. -/
def phaseCode (s : State) (x : Engine) : Nat :=
  match x.shown with
  | .none => 0
  | p =>
    if s.unit == .fault || (s.unit == .hold && !s.trace.stepping) then 7
    else
      match p with
      | .none => 0 | .pass1 => 1 | .turnaround => 2 | .pass2 => 3 | .racking => 4 | .first => 5 | .column => 6

/-- The row number, or the column group, that an engine serves. -/
def engineRow (s : State) (x : Engine) : Nat :=
  match s.ctx x.ctx with
  | some c => if isCol c.it then x.row / 16 % colGroups c.it else x.row
  | none => x.row

/-- UM_DBG_ENG[e] (R258). -/
def engineWord (s : State) (x : Engine) : Word :=
  let paced := b01 (budgetSpent s.power x.issued)
  if x.shown == .none then fields [(5, paced)]
  else fields [(0, phaseCode s x), (3, b01 x.ctx), (4, b01 x.waiting), (5, paced), (8, engineRow s x % 2 ^ 24)]

/-- The largest count of step beats left; an engine without work counts with its own (log 81). -/
def stepLeftMax (s : State) : Nat := s.engines.foldl (fun n x => max n x.stepLeft.toNat) 0

/-- Word w of a trace entry. -/
def TrEnt.word (e : TrEnt) (w : Nat) : Word :=
  match w with
  | 0 => e.w0 | 1 => e.w1 | 2 => e.w2 | _ => e.w3

/-- Page 15 (Table 15-6). -/
def readPage15 (s : State) (o : Nat) : Word :=
  let t := s.trace
  if inArray o 0x080 16 then engineWord s (vAt s.engines (BitVec.ofNat 4 ((o - 0x080) / 4)))
  else if inArray o 0x800 512 then (vAt t.ents (BitVec.ofNat 7 ((o - 0x800) / 16))).word (o % 16 / 4)
  else
    match o with
    | 0x040 => t.ctrl
    | 0x044 => fields [(0, t.next.toNat), (8, min t.count 128), (16, b01 t.wrapped), (17, b01 t.stopped)]
    | 0x04C => t.ticks
    | 0x050 => t.lost
    | 0x054 => (stepBeats t.dbgBeats).zeroExtend 32
    | 0x058 => fields [(0, b01 t.stepping), (16, stepLeftMax s)]
    | _ => 0

/-- Page and page offset of a window offset (R240). -/
def pageOf (off : BitVec 16) : PageId := off.extractLsb' 12 4
def offOf (off : BitVec 16) : Nat := off.toNat % 0x1000

/-- What an aligned 32-bit read of the window returns; in OFF the chip register space answers 0 (R22). -/
def readReg (s : State) (off : BitVec 16) : Word :=
  let p := pageOf off
  let o := offOf off
  if s.unit == .off then 0
  else if o < 0x040 then readHeader s p o
  else
    match p.toNat with
    | 0 => if o == 0x044 then gstatWord s else 0
    | 1 => readPage1 s o
    | 2 => readPage2 s o
    | 3 => readPage3 s o
    | 4 => readPage4 s o
    | 5 => if inArray o 0x800 512 then windowRead s.cellar (BitVec.ofNat 9 ((o - 0x800) / 4)) else 0
    | 6 => readPage6 s o
    | 7 => readPage7 s o
    | 8 => readPage8 s o
    | 9 => readPage9 s o
    | 10 => readPage10 s o
    | 11 => readPage11 s o
    | 12 => readPage12 s o
    | 13 => readPage13 s o
    | 14 => readPage14 s o
    | _ => readPage15 s o

/-! ### Writes of the header -/

/-- err_clr (R245). -/
def errClear (s : State) (p : PageId) : State :=
  s.updHdr p fun h =>
    { h with errCode := 0, errStatus := 0, errValid := false, errArg := 0, errCnt := 0, istat := h.istat &&& 0x7FFF#16 }

/-- A header write; no unit state refuses it (R246). Every page holds all 16 bits of UM_PAGE_IEN (R195, log 88). -/
def writeHeader (p : PageId) (o : Nat) (v : Word) (s : State) : State :=
  match o with
  | 0x00C => if v.getLsbD 0 then errClear s p else s
  | 0x014 => s.updHdr p fun h => { h with ien := v.extractLsb' 0 16 }
  | 0x018 => s.updHdr p fun h => { h with istat := h.istat &&& ~~~(v.extractLsb' 0 16) }
  | 0x01C => s.updHdr p fun h => { h with errValid := h.errValid && !v.getLsbD 11 }
  | 0x020 => s.updHdr p fun h => { h with errCnt := v }
  | 0x024 => s.updHdr p fun h => { h with scratch := v }
  | _ => s

/-! ### Writes by page -/

/-- A half of a W1C register of 64 bits. -/
def clearHalf (r : BitVec 64) (hi : Bool) (v : Word) : BitVec 64 := r &&& ~~~(v.zeroExtend 64 <<< (if hi then 32 else 0))

/-- Page 1. -/
def writePage1 (o : Nat) (v : Word) (s : State) : State :=
  if inArray o 0x100 512 then
    let g := BitVec.ofNat 6 ((o - 0x100) / 0x20)
    match (o - 0x100) % 0x20 with
    | 0x00 => gqBasePort g v s
    | 0x04 => gqCfgPort g v s
    | 0x08 => gqWdogPort g v s
    | 0x0C => doorbellPort g v s
    | 0x10 => gqCmdWrite g v s
    | _ => s
  else s

/-- Page 2: W1C fields alone. -/
def writePage2 (o : Nat) (v : Word) (s : State) : State :=
  if o == 0x040 then { s with done := clearHalf s.done false v }
  else if o == 0x044 then { s with done := clearHalf s.done true v }
  else if inArray o 0x100 256 && (o - 0x100) % 0x10 == 0xC then
    s.updGuest (BitVec.ofNat 6 ((o - 0x100) / 0x10)) fun x => if v.getLsbD 7 then { x with first := x.first &&& ~~~0x80#32 } else x
  else s

/-- Page 3. -/
def writePage3 (o : Nat) (v : Word) (s : State) : State :=
  if o == 0x040 then ovCtrlWrite v s
  else if isOvData (BitVec.ofNat 12 o) then ovDataWrite (BitVec.ofNat 12 o) v s
  else s

/-- UM_CT_SEL. -/
def ctSelWrite (v : Word) (s : State) : State :=
  stateWrite s 4 0x044 s.running fun s =>
    { s with cellar := { s.cellar with selTable := v.extractLsb' 0 4, selWindow := v.extractLsb' 4 2, selView := v.getLsbD 8 } }

/-- Page 4. -/
def writePage4 (o : Nat) (v : Word) (s : State) : State :=
  match o with
  | 0x044 => ctSelWrite v s
  | 0x048 => ctCmdWrite v s
  | _ => s

/-- The fields of UM_VS_POLICY; [15] and [31:24] are reserved (R4, R102, Table 6-2). -/
def policyFields : Word := 0x00FF7FFF#32

/-- Page 6. -/
def writePage6 (o : Nat) (v : Word) (s : State) : State :=
  let put (off : BitVec 12) (f : Vintage → Vintage) := stateWrite s 6 off s.running fun s => { s with vint := f s.vint }
  match o with
  | 0x040 => put 0x040 fun x => { x with rangeFirst := v.extractLsb' 0 10, rangeLast := v.extractLsb' 16 10 }
  | 0x044 => put 0x044 fun x => { x with policy := v &&& policyFields }
  | 0x048 => vsCmdWrite v s
  | 0x04C => put 0x04C fun x => { x with coldrd := v }
  | _ => s

/-- Page 7. -/
def writePage7 (o : Nat) (v : Word) (s : State) : State :=
  match o with
  | 0x040 => vwCtrlWrite v s
  | 0x048 => stateWrite s 7 0x048 s.running fun s => { s with vint := { s.vint with xbase := v.extractLsb' 0 26 } }
  | 0x04C => xcmdWrite v s
  | _ => if isVwData (BitVec.ofNat 12 o) then vwDataWrite (BitVec.ofNat 12 o) v s else s

/-- Page 8: RW and W1C fields, legal in every state (R246). -/
def writePage8 (o : Nat) (v : Word) (s : State) : State :=
  let put (f : Exceptions → Exceptions) : State := { s with exc := f s.exc }
  if inArray o 0x080 12 then put fun x => { x with evCnt := vPut x.evCnt (BitVec.ofNat 4 ((o - 0x080) / 4)) v }
  else if inArray o 0x100 64 then
    s.updGuest (BitVec.ofNat 6 ((o - 0x100) / 4)) fun x => { x with flags := x.flags &&& ~~~(v.extractLsb' 0 12) }
  else
    match o with
    | 0x040 => put fun x => { x with flags := x.flags &&& ~~~(v.extractLsb' 0 12) }
    | 0x044 => put fun x => { x with fmask := v.extractLsb' 0 12 }
    | 0x048 => put fun x => { x with nanCnt := v }
    | 0x04C => put fun x => { x with ovfCnt := v }
    | 0x050 => put fun x => { x with sramCnt := v }
    | 0x054 => put fun x => { x with sramValid := x.sramValid && !v.getLsbD 31 }
    | _ => s

/-- Page 9. -/
def writePage9 (o : Nat) (v : Word) (s : State) : State :=
  match o with
  | 0x040 => stateWrite s 9 0x040 s.running fun s => { s with smCfg := v &&& 0x1F#32 }
  | 0x044 => { s with ready := clearHalf s.ready false v }
  | 0x048 => { s with ready := clearHalf s.ready true v }
  | _ => s

/-- Page 10. -/
def writePage10 (o : Nat) (v : Word) (s : State) : State :=
  let put (off : BitVec 12) (f : Power → Power) := stateWrite s 10 off s.rwOpen fun s => { s with power := f s.power }
  match o with
  | 0x040 => stateWrite s 10 0x040 s.rwOpen fun s => updReq { s with power := { s.power with sprintEn := v.getLsbD 0 } }
  | 0x054 => pacecapPort v s
  | 0x060 => put 0x060 fun p => { p with tthr := v.extractLsb' 0 10, hot := decide ((v.extractLsb' 0 10).toNat ≤ p.tj.toNat) }
  | 0x064 => sprusedPort v s
  | 0x068 => sprlimPort v s
  | 0x06C => put 0x06C fun p => { p with revCnt := v }
  | 0x070 => put 0x070 fun p => { p with proto := v }
  | _ => s

/-- Page 11. -/
def writePage11 (o : Nat) (v : Word) (s : State) : State :=
  let put (off : BitVec 12) (f : Health → Health) := stateWrite s 11 off s.rwOpen fun s => { s with health := f s.health }
  match o with
  | 0x080 => put 0x080 fun h => { h with cwarn := v.extractLsb' 0 8 }
  | 0x088 => hlUsedPort v s
  | 0x08C => hlLifePort v s
  | 0x098 => put 0x098 fun h => { h with lowThr := v }
  | 0x0A0 => hlCmdWrite v s
  | _ => s

/-- Page 12. -/
def writePage12 (o : Nat) (v : Word) (s : State) : State :=
  match o with
  | 0x040 => bundlePort v s
  | 0x044 => vreqPort v s
  | 0x048 => stateWrite s 12 0x048 s.rwOpen fun s => { s with test := { s.test with biSel := v.extractLsb' 0 8 } }
  | _ => s

/-- Page 13; the valid bit of UM_TW_MISS is W1C. -/
def writePage13 (o : Nat) (v : Word) (s : State) : State :=
  let put (off : BitVec 12) (f : Twin → Twin) := stateWrite s 13 off s.rwOpen fun s => { s with twin := f s.twin }
  match o with
  | 0x040 => twCtrlPort v s
  | 0x04C => { s with twin := { s.twin with missValid := s.twin.missValid && !v.getLsbD 31 } }
  | 0x050 => put 0x050 fun t => { t with misCnt := v }
  | 0x054 => put 0x054 fun t => { t with uncmp := v }
  | _ => s

/-- Page 14. -/
def writePage14 (o : Nat) (v : Word) (s : State) : State :=
  let put (off : BitVec 12) (f : Tasting → Tasting) := stateWrite s 14 off s.running fun s => { s with tasting := f s.tasting }
  match o with
  | 0x040 => put 0x040 fun t => { t with ctrl := v &&& 0x13F#32 }
  | 0x044 => put 0x044 fun t => { t with convThr := v }
  | 0x048 => put 0x048 fun t => { t with fnThr := v }
  | 0x04C => put 0x04C fun t => { t with selIndex := v.extractLsb' 0 10, selKind := v.getLsbD 16 }
  | 0x050 => tsCmdWrite v s
  | 0x054 => put 0x054 fun t => { t with saveBase := v.extractLsb' 0 26 }
  | _ => s

/-- Page 15. -/
def writePage15 (o : Nat) (v : Word) (s : State) : State :=
  match o with
  | 0x040 => stateWrite s 15 0x040 s.running fun s => { s with trace := { s.trace with ctrl := v &&& 0xFF03#32 } }
  | 0x048 => trCmdWrite v s
  | 0x050 => { s with trace := { s.trace with lost := v } }
  | 0x054 => dbgCmdWrite v s
  | _ => s

/-- An aligned 32-bit write of the window outside OFF: the register of that offset takes it; reserved offsets and registers
without RW, WO or W1C fields ignore it, unlogged (R3, R4, R179). -/
def writeReg (off : BitVec 16) (v : Word) (s : State) : State :=
  let p := pageOf off
  let o := offOf off
  if o < 0x040 then writeHeader p o v s
  else
    match p.toNat with
    | 0 => if o == 0x040 then gctrlWrite v s else s
    | 1 => writePage1 o v s
    | 2 => writePage2 o v s
    | 3 => writePage3 o v s
    | 4 => writePage4 o v s
    | 5 => if inArray o 0x800 512 then windowWrite (BitVec.ofNat 9 ((o - 0x800) / 4)) v s else s
    | 6 => writePage6 o v s
    | 7 => writePage7 o v s
    | 8 => writePage8 o v s
    | 9 => writePage9 o v s
    | 10 => writePage10 o v s
    | 11 => writePage11 o v s
    | 12 => writePage12 o v s
    | 13 => writePage13 o v s
    | 14 => writePage14 o v s
    | _ => writePage15 o v s

/-- An access of another size or alignment (R20): logged on page 0; a read of it returns 0, in both halves where it is wider than a word. -/
def badAccess (off : BitVec 16) (write wide : Bool) (s : State) : State :=
  let s := if s.unit == .off then s else logEvent s 0 0x80 stBadField (off.zeroExtend 20)
  if write then s else { s with rdata := 0, rdataLow := if wide then 0 else s.rdataLow }

/-- Capture of the high words (R249). -/
def capture (s : State) (off : BitVec 16) : State :=
  let rec' (i : Nat) : Word := match selectedTaste s.tasting with | some r => r.words.getD i 0 | none => 0
  match off.toNat with
  | 0xA074 => { s with power := { s.power with beatHi := half s.power.beats true } }
  | 0xD058 => { s with twin := { s.twin with hashHi := half s.twin.hash true } }
  | 0xE110 => { s with tasting := { s.tasting with rec5 := rec' 5 } }
  | 0xE120 => { s with tasting := { s.tasting with rec9 := rec' 9 } }
  | _ => s

/-! ### Commands -/

/-- The access is aligned. -/
def aligned (off : BitVec 16) : Bool := off.toNat % 4 == 0

/-- REGISTER_WRITE: a write of any register of the map (R3, R179, R180, R239). -/
def execRegisterWrite (off : BitVec 16) (v : Word) (s : State) : Out :=
  if aligned off then regWrite s (writeReg off v) else .next (badAccess off true false s)

/-- W1C_CLEAR: a write of 1 to W1C bits (R3, R194). -/
def execW1cClear (off : BitVec 16) (v : Word) (s : State) : Out :=
  if aligned off then regWrite s (writeReg off v) else .next (badAccess off true false s)

/-- ERR_CLR: UM_PAGE_CTRL.err_clr of a page (R245). -/
def execErrClr (p : PageId) (v : Word) (s : State) : Out := regWrite s (writeHeader p 0x00C (v ||| 1#32))

/-- An aligned 32-bit read: its data, and the capture of a high word (R249). -/
def readAccess (off : BitVec 16) (s : State) : State :=
  if s.unit == .off then { s with rdata := 0 } else capture { s with rdata := readReg s off } off

/-- An aligned 32-bit write, which OFF discards (R22). -/
def writeAccess (off : BitVec 16) (v : Word) (s : State) : State := if s.unit == .off then s else writeReg off v s

/-- An aligned 64-bit access: two 32-bit accesses, the lower address first (R20). The data of the lower read stay beside those of the
upper one. -/
def splitAccess (off : BitVec 16) (write : Option (BitVec 64)) (s : State) : State :=
  match write with
  | some v => writeAccess (off + 4) (half v true) (writeAccess off (half v false) s)
  | none =>
    let s := readAccess off s
    readAccess (off + 4) { s with rdataLow := s.rdata }

/-- BUS_SIZE: an access that is no aligned 32-bit one. An aligned 64-bit access is split; any other is logged and not acted on (R20). -/
def execBusSize (off : BitVec 16) (size : BitVec 8) (write : Option (BitVec 64)) (s : State) : Out :=
  .next (if size == 8 && off.toNat % 8 == 0 then splitAccess off write s else badAccess off write.isSome (decide (4 < size.toNat)) s)

/-- LOW_WORD_READ: a read of the low word of a pair, which captures the high word (R249). -/
def execLowWordRead (off : BitVec 16) (s : State) : Out :=
  if aligned off then .next (readAccess off s) else .next (badAccess off false false s)

end Sys2Proof.Machine
end

