-- ==== Sys2Proof/Machine/Dispatch.lean ====
section
/-! DEFINITION. One arm per command: the meaning it calls. -/

namespace Sys2Proof.Machine

def exec (i : Instr) (s : State) : Host.Outcome State Fault Refusal :=
  match i with
  | .run v => Sys2Proof.Machine.execRun v s
  | .stop v => Sys2Proof.Machine.execStop v s
  | .hold v => Sys2Proof.Machine.execHold v s
  | .resume v => Sys2Proof.Machine.execResume v s
  | .bist v => Sys2Proof.Machine.execBist v s
  | .softwareReset v => Sys2Proof.Machine.execSoftwareReset v s
  | .attach g v => Sys2Proof.Machine.execAttach g v s
  | .detachDrain g v => Sys2Proof.Machine.execDetachDrain g v s
  | .detachNow g v => Sys2Proof.Machine.execDetachNow g v s
  | .guestResume g v => Sys2Proof.Machine.execGuestResume g v s
  | .doorbell g v => Sys2Proof.Machine.execDoorbell g v s
  | .gqBaseWrite g v => Sys2Proof.Machine.execGqBaseWrite g v s
  | .gqCfgWrite g v => Sys2Proof.Machine.execGqCfgWrite g v s
  | .overlayOpen v => Sys2Proof.Machine.execOverlayOpen v s
  | .overlayApply v => Sys2Proof.Machine.execOverlayApply v s
  | .overlayDiscard v => Sys2Proof.Machine.execOverlayDiscard v s
  | .overlayWindowWrite off v => Sys2Proof.Machine.execOverlayWindowWrite off v s
  | .tableStage v => Sys2Proof.Machine.execTableStage v s
  | .tableCommit v => Sys2Proof.Machine.execTableCommit v s
  | .tableAbandon v => Sys2Proof.Machine.execTableAbandon v s
  | .tableWindowWrite w v => Sys2Proof.Machine.execTableWindowWrite w v s
  | .setPolicy v => Sys2Proof.Machine.execSetPolicy v s
  | .vsClear v => Sys2Proof.Machine.execVsClear v s
  | .vwOpen v => Sys2Proof.Machine.execVwOpen v s
  | .vwApply v => Sys2Proof.Machine.execVwApply v s
  | .vwDiscard v => Sys2Proof.Machine.execVwDiscard v s
  | .vwDataWrite off v => Sys2Proof.Machine.execVwDataWrite off v s
  | .saveSlots v => Sys2Proof.Machine.execSaveSlots v s
  | .restoreSlots v => Sys2Proof.Machine.execRestoreSlots v s
  | .saveMaps v => Sys2Proof.Machine.execSaveMaps v s
  | .restoreMaps v => Sys2Proof.Machine.execRestoreMaps v s
  | .transferComplete => Sys2Proof.Machine.execTransferComplete s
  | .tsClear v => Sys2Proof.Machine.execTsClear v s
  | .tsClearAll v => Sys2Proof.Machine.execTsClearAll v s
  | .tsSave v => Sys2Proof.Machine.execTsSave v s
  | .tsSaveComplete => Sys2Proof.Machine.execTsSaveComplete s
  | .errClr p v => Sys2Proof.Machine.execErrClr p v s
  | .w1cClear off v => Sys2Proof.Machine.execW1cClear off v s
  | .clrLow v => Sys2Proof.Machine.execClrLow v s
  | .hlUsedWrite v => Sys2Proof.Machine.execHlUsedWrite v s
  | .hlLifeWrite v => Sys2Proof.Machine.execHlLifeWrite v s
  | .sprusedWrite v => Sys2Proof.Machine.execSprusedWrite v s
  | .sprlimWrite v => Sys2Proof.Machine.execSprlimWrite v s
  | .pacecapWrite v => Sys2Proof.Machine.execPacecapWrite v s
  | .bundleWrite v => Sys2Proof.Machine.execBundleWrite v s
  | .vreqWrite v => Sys2Proof.Machine.execVreqWrite v s
  | .twCtrlWrite v => Sys2Proof.Machine.execTwCtrlWrite v s
  | .trClear v => Sys2Proof.Machine.execTrClear v s
  | .trFreeze v => Sys2Proof.Machine.execTrFreeze v s
  | .trUnfreeze v => Sys2Proof.Machine.execTrUnfreeze v s
  | .step v => Sys2Proof.Machine.execStep v s
  | .stepEnd => Sys2Proof.Machine.execStepEnd s
  | .registerWrite off v => Sys2Proof.Machine.execRegisterWrite off v s
  | .busSize off size write => Sys2Proof.Machine.execBusSize off size write s
  | .lowWordRead off => Sys2Proof.Machine.execLowWordRead off s
  | .vtarget code => Sys2Proof.Machine.execVtarget code s
  | .pace v => Sys2Proof.Machine.execPace v s
  | .sprintGrant => Sys2Proof.Machine.execSprintGrant s
  | .sprintRevoke => Sys2Proof.Machine.execSprintRevoke s
  | .resetN => Sys2Proof.Machine.execResetN s
  | .powerUp mv => Sys2Proof.Machine.execPowerUp mv s
  | .brownOut mv => Sys2Proof.Machine.execBrownOut mv s
  | .retentionEntry mv => Sys2Proof.Machine.execRetentionEntry mv s
  | .retentionExit mv => Sys2Proof.Machine.execRetentionExit mv s
  | .vsprintChange mv => Sys2Proof.Machine.execVsprintChange mv s
  | .initDone => Sys2Proof.Machine.execInitDone s
  | .oscCountDone count mv => Sys2Proof.Machine.execOscCountDone count mv s
  | .calibrateEnd romOk mcal => Sys2Proof.Machine.execCalibrateEnd romOk mcal s
  | .bistEnd failed info ticks edges => Sys2Proof.Machine.execBistEnd failed info ticks edges s
  | .sprintTick => Sys2Proof.Machine.execSprintTick s
  | .ledgerTick mv => Sys2Proof.Machine.execLedgerTick mv s
  | .lifeEstimate => Sys2Proof.Machine.execLifeEstimate s
  | .paceWindow => Sys2Proof.Machine.execPaceWindow s
  | .holdoffEnd => Sys2Proof.Machine.execHoldoffEnd s
  | .sprintIdleTimeout => Sys2Proof.Machine.execSprintIdleTimeout s
  | .iest estimate => Sys2Proof.Machine.execIest estimate s
  | .tempSample tj => Sys2Proof.Machine.execTempSample tj s
  | .canarySample readings => Sys2Proof.Machine.execCanarySample readings s
  | .sramError uncorr array index => Sys2Proof.Machine.execSramError uncorr array index s
  | .itineraryFetch => Sys2Proof.Machine.execItineraryFetch s
  | .itineraryCheck => Sys2Proof.Machine.execItineraryCheck s
  | .beat e => Sys2Proof.Machine.execBeat e s
  | .rowTurnaround e => Sys2Proof.Machine.execRowTurnaround e s
  | .racking e => Sys2Proof.Machine.execRacking e s
  | .readReturn line poison => Sys2Proof.Machine.execReadReturn line poison s
  | .writeAccept => Sys2Proof.Machine.execWriteAccept s
  | .itineraryComplete g => Sys2Proof.Machine.execItineraryComplete g s
  | .watchdog c => Sys2Proof.Machine.execWatchdog c s
  | .twinActivate => Sys2Proof.Machine.execTwinActivate s
  | .twinChunkSend => Sys2Proof.Machine.execTwinChunkSend s
  | .twinMessage seq hash => Sys2Proof.Machine.execTwinMessage seq hash s
  | .twinLeave => Sys2Proof.Machine.execTwinLeave s
  | .traceWrite => Sys2Proof.Machine.execTraceWrite s
  | .resetRelease mv => Sys2Proof.Machine.execResetRelease mv s

end Sys2Proof.Machine
end

