-- ==== Sys2Proof/WellFormed.lean ====
section
/-! DEFINITION. Which commands are well-formed: the written word carries its own command bit, the offset is one the command is for,
the reading is in the range that names the event. -/

namespace Sys2Proof

/-- The offset lies in an array of n words from a base. -/
def offIn (off : Nat) (base n : Nat) : Bool := decide (base ≤ off) && decide (off < base + 4 * n) && off % 4 == 0

/-- Window offsets of the registers that hold W1C bits (Tables 2-8, 12-3, 12-7, 12-10, 14-6). -/
def hasW1c (off : Nat) : Bool :=
  off % 0x1000 == 0x018 || off % 0x1000 == 0x01C || off == 0x2040 || off == 0x2044 ||
  (offIn off 0x2100 256 && off % 0x10 == 0xC) || off == 0x8040 || off == 0x8054 || offIn off 0x8100 64 ||
  off == 0x9044 || off == 0x9048 || off == 0xD04C

/-- The low words of Table 15-4a. -/
def lowWords : List Nat := [0xA074, 0xD058, 0xE110, 0xE120]

/-- go is set and op is the given one (Table 6-4). -/
def isXcmd (v : Word) (op : Nat) : Bool := v.getLsbD 31 && (bitsOf v 20 2).toNat == op

/-- An access that is no aligned 32-bit one (R20): bytes and alignment. -/
def badSize (off size : Nat) : Bool := !(size == 4 && off % 4 == 0)

/-- The delay of every bundle is positive (R226). -/
def Delays.ok (d : Delays) : Bool := (List.range 64).all fun k => d.bundles.extractLsb' (16 * k) 16 != 0

/-- The command is well-formed. -/
def Instr.wellFormed : Instr → Bool
  | .run v => v.getLsbD 0
  | .stop v => v.getLsbD 1
  | .hold v => v.getLsbD 2
  | .resume v => v.getLsbD 3
  | .bist v => v.getLsbD 4
  | .softwareReset v => v.getLsbD 31
  | .attach _ v => v.getLsbD 0
  | .detachDrain _ v => v.getLsbD 1
  | .detachNow _ v => v.getLsbD 2
  | .guestResume _ v => v.getLsbD 3
  | .doorbell _ _ => true
  | .gqBaseWrite _ _ => true
  | .gqCfgWrite _ _ => true
  | .overlayOpen v => v.getLsbD 8
  | .overlayApply v => v.getLsbD 9
  | .overlayDiscard v => v.getLsbD 10
  | .overlayWindowWrite off _ => off == 0x048 || offIn off.toNat 0x200 128
  | .tableStage v => v.getLsbD 0
  | .tableCommit v => v.getLsbD 1
  | .tableAbandon v => v.getLsbD 2
  | .tableWindowWrite _ _ => true
  | .setPolicy v => v.getLsbD 0
  | .vsClear v => v.getLsbD 1
  | .vwOpen v => v.getLsbD 16
  | .vwApply v => v.getLsbD 17
  | .vwDiscard v => v.getLsbD 18
  | .vwDataWrite off _ => offIn off.toNat 0x100 16 || offIn off.toNat 0x200 128
  | .saveSlots v => isXcmd v 0
  | .restoreSlots v => isXcmd v 1
  | .saveMaps v => isXcmd v 2
  | .restoreMaps v => isXcmd v 3
  | .transferComplete => true
  | .tsClear v => v.getLsbD 0
  | .tsClearAll v => v.getLsbD 1
  | .tsSave v => v.getLsbD 2
  | .tsSaveComplete => true
  | .errClr _ v => v.getLsbD 0
  | .w1cClear off _ => hasW1c off.toNat
  | .clrLow v => v.getLsbD 0
  | .hlUsedWrite _ => true
  | .hlLifeWrite _ => true
  | .sprusedWrite _ => true
  | .sprlimWrite _ => true
  | .pacecapWrite _ => true
  | .bundleWrite _ => true
  | .vreqWrite _ => true
  | .twCtrlWrite _ => true
  | .trClear v => v.getLsbD 0
  | .trFreeze v => v.getLsbD 1
  | .trUnfreeze v => v.getLsbD 2
  | .step v => v.getLsbD 31
  | .stepEnd => true
  | .registerWrite off _ => off.toNat % 4 == 0
  | .busSize off size _ => badSize off.toNat size.toNat
  | .lowWordRead off => lowWords.contains off.toNat
  | .vtarget _ => true
  | .pace _ => true
  | .sprintGrant => true
  | .sprintRevoke => true
  | .resetN => true
  | .powerUp mv => decide (500 ≤ mv.toNat)
  | .brownOut mv => decide (mv.toNat < 500)
  | .retentionEntry mv => decide (500 ≤ mv.toNat) && decide (mv.toNat < 570)
  | .retentionExit mv => decide (580 ≤ mv.toNat)
  | .vsprintChange _ => true
  | .initDone => true
  | .oscCountDone _ mv => decide (500 ≤ mv.toNat)
  | .calibrateEnd _ _ => true
  | .bistEnd _ _ _ _ => true
  | .sprintTick => true
  | .ledgerTick mv => decide (500 ≤ mv.toNat)
  | .lifeEstimate => true
  | .paceWindow => true
  | .holdoffEnd => true
  | .sprintIdleTimeout => true
  | .iest _ => true
  | .tempSample _ => true
  | .canarySample readings => readings.ok
  | .sramError _ _ _ => true
  | .itineraryFetch => true
  | .itineraryCheck => true
  | .beat _ => true
  | .rowTurnaround _ => true
  | .racking _ => true
  | .readReturn line _ => decide (line.toNat < 0x18000)
  | .writeAccept => true
  | .itineraryComplete _ => true
  | .watchdog _ => true
  | .twinActivate => true
  | .twinChunkSend => true
  | .twinMessage _ _ => true
  | .twinLeave => true
  | .traceWrite => true
  | .resetRelease mv => decide (500 ≤ mv.toNat)

/-! ### Commands that are writes of a register -/

/-- A window offset from a page and a page offset. -/
def winOff (page off : Nat) : BitVec 16 := BitVec.ofNat 16 (page * 0x1000 + off)

/-- The window offset and the word of a command that is a write of one register of the map (Table 15-4). -/
def Instr.port : Instr → Option (BitVec 16 × Word)
  | .run v | .stop v | .hold v | .resume v | .bist v | .softwareReset v => some (winOff 0 0x040, v)
  | .attach g v | .detachDrain g v | .detachNow g v | .guestResume g v => some (winOff 1 (0x100 + 0x20 * g.toNat + 0x10), v)
  | .doorbell g v => some (winOff 1 (0x100 + 0x20 * g.toNat + 0xC), v)
  | .gqBaseWrite g v => some (winOff 1 (0x100 + 0x20 * g.toNat), v)
  | .gqCfgWrite g v => some (winOff 1 (0x100 + 0x20 * g.toNat + 4), v)
  | .overlayOpen v | .overlayApply v | .overlayDiscard v => some (winOff 3 0x040, v)
  | .overlayWindowWrite off v => some (winOff 3 off.toNat, v)
  | .tableStage v | .tableCommit v | .tableAbandon v => some (winOff 4 0x048, v)
  | .tableWindowWrite w v => some (winOff 5 (0x800 + 4 * w.toNat), v)
  | .setPolicy v | .vsClear v => some (winOff 6 0x048, v)
  | .vwOpen v | .vwApply v | .vwDiscard v => some (winOff 7 0x040, v)
  | .vwDataWrite off v => some (winOff 7 off.toNat, v)
  | .saveSlots v | .restoreSlots v | .saveMaps v | .restoreMaps v => some (winOff 7 0x04C, v)
  | .tsClear v | .tsClearAll v | .tsSave v => some (winOff 14 0x050, v)
  | .errClr p v => some (winOff p.toNat 0x00C, v)
  | .w1cClear off v => some (off, v)
  | .clrLow v => some (winOff 11 0x0A0, v)
  | .hlUsedWrite v => some (winOff 11 0x088, v)
  | .hlLifeWrite v => some (winOff 11 0x08C, v)
  | .sprusedWrite v => some (winOff 10 0x064, v)
  | .sprlimWrite v => some (winOff 10 0x068, v)
  | .pacecapWrite v => some (winOff 10 0x054, v)
  | .bundleWrite v => some (winOff 12 0x040, v)
  | .vreqWrite v => some (winOff 12 0x044, v)
  | .twCtrlWrite v => some (winOff 13 0x040, v)
  | .trClear v | .trFreeze v | .trUnfreeze v => some (winOff 15 0x048, v)
  | .step v => some (winOff 15 0x054, v)
  | .registerWrite off v => some (off, v)
  | .transferComplete | .tsSaveComplete | .stepEnd | .busSize _ _ _ | .lowWordRead _ | .vtarget _ | .pace _ | .sprintGrant
  | .sprintRevoke | .resetN | .powerUp _ | .brownOut _ | .retentionEntry _ | .retentionExit _ | .vsprintChange _ | .initDone
  | .oscCountDone _ _ | .calibrateEnd _ _ | .bistEnd _ _ _ _ | .sprintTick | .ledgerTick _ | .lifeEstimate | .paceWindow
  | .holdoffEnd | .sprintIdleTimeout | .iest _ | .tempSample _ | .canarySample _ | .sramError _ _ _ | .itineraryFetch
  | .itineraryCheck | .beat _ | .rowTurnaround _ | .racking _ | .readReturn _ _ | .writeAccept | .itineraryComplete _
  | .watchdog _ | .twinActivate | .twinChunkSend | .twinMessage _ _ | .twinLeave | .traceWrite | .resetRelease _ => none

/-- The command bits of a register at a window offset; none where its register has none that exclude each other. -/
def cmdBitsAt (off : Nat) : List Nat :=
  if off == 0x0040 then [0, 1, 2, 3, 4, 31]
  else if decide (0x1100 ≤ off) && decide (off < 0x1900) && off % 0x20 == 0x10 then [0, 1, 2, 3]
  else if off == 0x3040 then [8, 9, 10]
  else if off == 0x4048 then [0, 1, 2]
  else if off == 0x6048 then [0, 1]
  else if off == 0x7040 then [16, 17, 18]
  else if off == 0xE050 then [0, 1, 2]
  else if off == 0xF048 then [0, 1, 2]
  else []

/-- How many command bits a written word sets. -/
def bitCount (v : Word) (bits : List Nat) : Nat := (bits.filter fun b => v.getLsbD b).length

/-- The write sets at most one command bit, so CMD_MULTI does not refuse it. -/
def Instr.sole (c : Instr) : Bool :=
  match c.port with
  | some (off, v) => decide (bitCount v (cmdBitsAt off.toNat) ≤ 1)
  | none => true

end Sys2Proof
end

