-- ==== Sys2Proof/Safety.lean ====
section
/-! DEFINITION. What counts as a safe run: the invariants of the state, what a logged event is, and in which unit states a
command is legal. The statements use these. -/

namespace Sys2Proof.Machine

/-! ### Invariants -/

/-- The memory keeps its canonical form. -/
def MemInv (s : State) : Prop := Memory.wf s.mem = true

/-- A debug step runs in HOLD only (R257). -/
def StepInv (s : State) : Prop := s.trace.stepping = true → s.unit = .hold

/-- The event queue holds at most 8 entries (R253). -/
def TraceInv (s : State) : Prop := s.trace.queue.length ≤ 8

/-- The write FIFO holds at most 64 units (01_boundary.md, R10). -/
def FifoInv (s : State) : Prop := s.wfifo.length ≤ fifoDepth

/-- The twin FIFOs hold at most 64 hashes and 64 messages (R27). -/
def TwinInv (s : State) : Prop := s.twin.own.length ≤ 64 ∧ s.twin.part.length ≤ 64

/-- Own hashes and partner messages never wait together (R237). -/
def TwinSettled (s : State) : Prop := s.twin.own = [] ∨ s.twin.part = []

/-- Every slot record passes the check of R111, and the exponent that an itinerary stores under is one that a record may hold (R102). -/
def SlotInv (s : State) : Prop :=
  (∀ k : SlotId, recordOk (vAt s.vint.slots k) = true) ∧
  ∀ b c, s.ctx b = some c → expOk c.vOut = true

/-- Every command in the queue is well-formed. -/
def QueueOk (s : State) : Prop := ∀ c ∈ s.pending, c.wellFormed = true

/-- Where work can be (R174, R177, R178, R232): contexts only in RUN, DRAIN, HOLD and FAULT, write units only of a context in use,
transfers, saves and margin sessions not before CALIBRATE has ended. -/
def QuietInv (s : State) : Prop :=
  (∀ u ∈ s.wfifo, (s.ctx u.ctx).isSome = true) ∧
  (s.unit = .off ∨ s.unit = .reset ∨ s.unit = .calibrate ∨ s.unit = .bist ∨ s.unit = .idle → s.ctx0 = none ∧ s.ctx1 = none) ∧
  (s.unit = .off ∨ s.unit = .reset ∨ s.unit = .calibrate → s.vint.xfer = none ∧ s.tasting.save = none ∧ s.test.vreqEn = false)

/-- How many entries of a guest have started, been rejected or been discarded and have not completed. -/
def unposted (s : State) (g : GuestId) : Nat := (s.entries.filter fun e => e.guest == g).length

/-- The indices of a guest's ring are in order (R42, R43, R47): from head, the started index is as far as the guest has unposted
entries, the tail is not behind it and at most one ring away, and a DETACHED guest has nothing pending. -/
def RingOk (s : State) (g : GuestId) : Prop :=
  unposted s g = ((s.guest g).started - (s.guest g).head).toNat ∧
  ((s.guest g).started - (s.guest g).head).toNat ≤ ((s.guest g).tail - (s.guest g).head).toNat ∧
  ((s.guest g).tail - (s.guest g).head).toNat ≤ 2 ^ (s.guest g).log2Size.toNat ∧
  ((s.guest g).state = .detached → (s.guest g).tail = (s.guest g).head)

/-- Every guest's ring is in order. -/
def RingInv (s : State) : Prop := ∀ g, RingOk s g

/-! ### After a reset -/

/-- What R103 lists. -/
def VintageAtReset (t : State) : Prop :=
  (∀ (k : SlotId) (w : BitVec 4), vAt (vAt t.vint.slots k) w = if w = 0 then 0x00000F00#32 else if w = 1 then 0x0000030F#32 else 0) ∧
  (∀ k : SlotId, recEmpty (vAt t.vint.slots k) = true ∧ recVWrite (vAt t.vint.slots k) = 0 ∧ recVRead (vAt t.vint.slots k) = 0) ∧
  (∀ g, vAt t.vint.maps g = 0) ∧ t.vint.window = none ∧ t.vint.xfer = none ∧
  (∀ g, vAt t.tasting.guests g = .zero) ∧ ∀ k, vAt t.tasting.slots k = .zero

/-- What a reset with cause 1 or 2 leaves (R174, R230); the causes and the level of RESET_N are said beside it. -/
def AfterReset (s t : State) : Prop :=
  t.unit = .reset ∧ t.initRun = (t.resetN && decide (570 ≤ s.vddMv.toNat)) ∧
  { t with resetCause := 0, retention := false, resetN := false, vddMv := 500, initRun := false, mem := [], poison := [], merged := [],
           rdata := 0, rdataLow := 0, pmOut := [], twinOut := [], free := 0, pending := [], power := .reset, health := .reset } = State.reset ∧
  t.mem = s.mem ∧ t.poison = s.poison ∧ t.merged = s.merged ∧ t.pending = s.pending ∧ t.pmOut = s.pmOut ∧ t.twinOut = s.twinOut ∧
  t.rdata = s.rdata ∧ t.rdataLow = s.rdataLow ∧ t.retention = s.retention ∧ t.vddMv = s.vddMv ∧
  t.power = { Power.reset with vsprint := s.power.vsprint, heldV := s.power.heldV } ∧
  t.health = { Health.reset with used := s.health.used, life := s.health.life, ledgerOk := s.health.ledgerOk }

/-! ### What grows beside a command's own effect -/

/-- The trace only takes events: its queue may have grown and lost events may have been counted (R253). -/
def TraceGrows (s t : State) : Prop :=
  { t.trace with queue := s.trace.queue, lost := s.trace.lost } = s.trace ∧ s.trace.queue <+: t.trace.queue ∧
  s.trace.lost.toNat ≤ t.trace.lost.toNat

/-- An entry of the trace buffer (Table 15-7): ctx 3 is none. -/
def trEntry (s : State) (kind ctx guest : Nat) (a b : Word) : TrEnt :=
  ⟨s.trace.ticks, BitVec.ofNat 32 (kind + ctx * 2 ^ 8 + guest * 2 ^ 16), a, b⟩

/-- R253: what one event does to the trace. It enters the queue when en and its group's bit of kinds are 1 in the governing UM_TR_CTRL and
recording is not stopped; in a full queue it is lost, counted and a cause of page 15; otherwise nothing happens. -/
def Traced (s t : State) (gov : Word) (group : Nat) (ent : TrEnt) : Prop :=
  let on : Prop := gov.getLsbD 0 = true ∧ gov.getLsbD (8 + group) = true ∧ s.trace.stopped = false
  { t.trace with queue := s.trace.queue, lost := s.trace.lost } = s.trace ∧
  (on → s.trace.queue.length < 8 → t.trace.queue = s.trace.queue ++ [ent] ∧ t.trace.lost = s.trace.lost) ∧
  (on → 8 ≤ s.trace.queue.length → t.trace.queue = s.trace.queue ∧ t.trace.lost = satAdd s.trace.lost 1 ∧
    (vAt t.hdr 15).istat.getLsbD 1 = true) ∧
  (¬on → t.trace.queue = s.trace.queue ∧ t.trace.lost = s.trace.lost)

/-- The event is the command's first one; further events may follow it. -/
def TracedFirst (s t : State) (gov : Word) (group : Nat) (ent : TrEnt) : Prop :=
  ∃ m : State, Traced s m gov group ent ∧ TraceGrows m t ∧ (vAt m.hdr 15).istat &&& (vAt t.hdr 15).istat = (vAt m.hdr 15).istat

/-- The LOG event of Table 15-8. -/
def logEntry (s : State) (p : PageId) (code : BitVec 8) (status : BitVec 3) (arg : BitVec 20) : TrEnt :=
  trEntry s 0x30 3 0 (BitVec.ofNat 32 (p.toNat + code.toNat * 2 ^ 8 + status.toNat * 2 ^ 16)) (arg.zeroExtend 32)

/-- A page header in which only further ISTAT bits are set (R195). -/
def CausesGrow (a b : PageHdr) : Prop := { b with istat := a.istat } = a ∧ a.istat &&& b.istat = a.istat

/-- Every page header is as it was, but for further ISTAT bits. -/
def HeadersGrow (s t : State) : Prop := ∀ p : PageId, CausesGrow (vAt s.hdr p) (vAt t.hdr p)

/-- What R196 says of one logged event, on the header of its page. -/
def LoggedHere (a b : PageHdr) (code : BitVec 8) (status : BitVec 3) (arg : BitVec 20) : Prop :=
  b.errCnt = satAdd a.errCnt 1 ∧ b.istat.getLsbD 15 = true ∧ a.istat &&& b.istat = a.istat ∧ b.errValid = true ∧
  b.ien = a.ien ∧ b.scratch = a.scratch ∧
  (if a.errValid then b.errCode = a.errCode ∧ b.errStatus = a.errStatus ∧ b.errArg = a.errArg
   else b.errCode = code ∧ b.errStatus = status ∧ b.errArg = arg)

/-- The only effect is one logged event on page p (R196), with its LOG event (Table 15-8) and the causes that come with it. -/
def Logged (s t : State) (p : PageId) (code : BitVec 8) (status : BitVec 3) (arg : BitVec 20) : Prop :=
  { t with hdr := s.hdr, trace := s.trace } = s ∧ Traced s t s.trace.ctrl 6 (logEntry s p code status arg) ∧
  LoggedHere (vAt s.hdr p) (vAt t.hdr p) code status arg ∧
  ∀ q : PageId, q ≠ p → CausesGrow (vAt s.hdr q) (vAt t.hdr q)

/-! ### Legal commands by unit state -/

/-- The unit states in which a command that writes a register is legal (Tables 11-4 and 11-5, R219, R230-R232, R234, R246, R257).
REGISTER_WRITE, W1C_CLEAR and the commands that are no writes are not judged here. -/
def legalUnit (c : Instr) (u : UnitState) : Bool :=
  let running := u == .idle || u == .run || u == .drain || u == .hold
  match c with
  | .run _ => u == .idle || u == .drain
  | .stop _ => u == .run || u == .hold
  | .hold _ => u == .run
  | .resume _ => u == .hold
  | .bist _ => u == .idle
  | .attach _ _ | .detachDrain _ _ | .detachNow _ _ | .guestResume _ _ | .doorbell _ _ | .gqBaseWrite _ _ | .gqCfgWrite _ _
  | .overlayOpen _ | .overlayApply _ | .overlayDiscard _ | .overlayWindowWrite _ _
  | .tableStage _ | .tableCommit _ | .tableAbandon _ | .tableWindowWrite _ _
  | .setPolicy _ | .vsClear _ | .vwOpen _ | .vwApply _ | .vwDiscard _ | .vwDataWrite _ _
  | .saveSlots _ | .restoreSlots _ | .saveMaps _ | .restoreMaps _ | .tsClear _ | .tsClearAll _ | .tsSave _ => running
  | .pacecapWrite _ | .clrLow _ => running || u == .fault
  | .hlUsedWrite _ | .hlLifeWrite _ | .sprusedWrite _ | .sprlimWrite _ | .bundleWrite _ | .vreqWrite _ | .twCtrlWrite _ => u == .idle
  | .step _ => u == .hold
  | _ => true

/-- The unit state that a UM_GCTRL command leads to (Table 11-4); none where the table shows it illegal. A stop passes through DRAIN
to IDLE when nothing is in execution. -/
def controlTarget (c : Instr) (s : State) : Option UnitState :=
  match c, s.unit with
  | .run _, .idle | .run _, .drain => some .run
  | .stop _, .run | .stop _, .hold => some (if s.inExec = 0 then .idle else .drain)
  | .hold _, .run => some .hold
  | .resume _, .hold => some .run
  | .bist _, .idle => some .bist
  | _, _ => none

/-! ### What the statements say of entry to FAULT, sprint, arbitration, beats and completions -/

/-- R205: what entry to FAULT leaves: every guest, DONE and ready bit, entry, flag and counter, and, where no transfer or save is
stopped, the vintage state and every byte outside the outputs of the itineraries in execution and the 8-byte groups of the write FIFO. -/
def FaultKeeps (s t : State) (cause : BitVec 8) : Prop :=
  t.unit = .fault ∧ t.faultCause = cause ∧ (vAt t.hdr 0).istat.getLsbD 0 = true ∧ t.guests = s.guests ∧ t.done = s.done ∧
  t.ready = s.ready ∧ t.entries = s.entries ∧ t.exc.flags = s.exc.flags ∧ t.exc.nanCnt = s.exc.nanCnt ∧ t.exc.ovfCnt = s.exc.ovfCnt ∧
  t.exc.evCnt = s.exc.evCnt ∧ t.tasting.guests = s.tasting.guests ∧ t.tasting.slots = s.tasting.slots ∧
  t.cellar = s.cellar ∧ t.overlays = s.overlays ∧ t.power.sprintReq = false ∧ t.power.granted = false ∧ t.wfifo = [] ∧
  t.trace.stepping = false ∧
  (s.vint.xfer = none → t.vint = s.vint ∧ HeadersGrow s t ∧
    TraceGrows s { t with trace := { t.trace with stepping := s.trace.stepping } }) ∧
  (s.vint.xfer = none → s.tasting.save = none → ∀ a,
    (∀ u ∈ s.wfifo, ∀ w ∈ u.bytes, w.1 / 8 ≠ a / 8) → (∀ x ∈ ctxAreas s.ctx0 ++ ctxAreas s.ctx1, a < x.lo ∨ x.hi ≤ a) →
    memByte t.mem a = memByte s.mem a)

/-- R214, R215: SPRINT_REQ is 1 only under the standing conditions of R214, and a grant is in force only while it is 1. -/
def SprintInv (s : State) : Prop :=
  (s.power.granted = true → s.power.sprintReq = true) ∧
  (s.power.sprintReq = true → s.power.sprintEn = true ∧ s.power.accountOk = true ∧ s.power.clamped = false ∧
    (s.unit = .run ∨ s.unit = .drain) ∧ s.power.holdoff = false)

/-- R214: SPRINT_REQ is 1 exactly while all of its conditions hold; `recent` stands for the last 4,096 ticks (log 7). -/
def RequestHolds (s : State) : Prop :=
  s.power.sprintReq = true ↔ s.power.sprintEn = true ∧ s.power.accountOk = true ∧ s.power.clamped = false ∧
    (s.unit = .run ∨ s.unit = .drain) ∧ (s.power.recent = true ∨ s.inExec ≠ 0) ∧ s.power.holdoff = false

/-- The same as an invariant: an itinerary in execution has been so in the last 4,096 ticks. -/
def RequestInv (s : State) : Prop := RequestHolds s ∧ (s.inExec ≠ 0 → s.power.recent = true)

/-- R214, R215: SPRINT_REQ as its conditions have it, and a grant ends with it. -/
def RequestJudged (s t : State) : Prop := RequestHolds t ∧ t.power.granted = (s.power.granted && t.power.sprintReq)

/-- R178: what the end of itinerary b leaves of the unit state: DRAIN passes to IDLE, with page 0's cause, when no other is in execution. -/
def DrainPasses (s t : State) (b : Bool) : Prop :=
  (s.unit = .drain → s.ctx (!b) = none → t.unit = .idle ∧ (vAt t.hdr 0).istat.getLsbD 1 = true) ∧
  (s.unit ≠ .drain ∨ (s.ctx (!b)).isSome = true → t.unit = s.unit)

/-- R47, R49: the guest that arbitration selects: p again while it is eligible and has credit, else the first eligible guest after p,
with its weight (0 acts as 1) as the credit. -/
def Selects (s : State) (g : GuestId) (credit : BitVec 4) : Prop :=
  let elig (k : GuestId) : Prop :=
    ((s.guest k).state = .active ∨ (s.guest k).state = .draining) ∧ (s.guest k).started ≠ (s.guest k).tail
  (elig s.arbPtr ∧ s.arbCredit ≠ 0 ∧ g = s.arbPtr ∧ credit = s.arbCredit) ∨
  (¬(elig s.arbPtr ∧ s.arbCredit ≠ 0) ∧ elig g ∧ (credit = if (s.guest g).weight = 0 then 1 else (s.guest g).weight) ∧
    ∃ k, k < 64 ∧ g = s.arbPtr + BitVec.ofNat 6 (k + 1) ∧ ∀ j, j < k → ¬elig (s.arbPtr + BitVec.ofNat 6 (j + 1)))

/-- R183: what the overlay's writes, in list order, make of a register's base value: the last entry that names it decides. -/
def OverlayGives (o : Overlay) (target : Word) (base value : Word) : Prop :=
  let n := min o.count.toNat 64
  (∀ i, i < n → o.target i = target → (∀ j, i < j → j < n → o.target j ≠ target) → value = o.value i) ∧
  ((∀ i, i < n → o.target i ≠ target) → value = base)

/-- R226: r is the reading of engine e: the least of the margins of its four canaries, each min(255, 256 (bundle - path) / bundle). -/
def LeastMargin (d : Delays) (e r : Nat) : Prop :=
  let margin (k : Nat) : Nat :=
    let b := (d.bundles.extractLsb' (16 * (4 * e + k)) 16).toNat
    min 255 (256 * (b - (d.paths.extractLsb' (16 * (4 * e + k)) 16).toNat) / b)
  (∀ k, k < 4 → r ≤ margin k) ∧ ∃ k, k < 4 ∧ r = margin k

/-- R213: UM_PW_PACE.eff is the least of the PACE and cap values of the window, each at least 0x0100, and the paces in force. -/
def BudgetIs (p : Power) : Prop :=
  let n := p.nombeats.toNat
  p.eff.toNat = min (max 0x100 p.winMgr.toNat) (min (max 0x100 p.winCap.toNat) (min (if p.rvkPace then n / 2 else 0xFFFF)
    (min (if p.protoPace then n else 0xFFFF) (if p.guardPace then n / 4 else 0xFFFF))))

/-- R212, R213: a pace window begins: it takes the PACE and cap values received and the paces whose cause holds, and every engine's count
restarts. -/
def WindowOpens (s t : State) : Prop :=
  BudgetIs t.power ∧ t.power.winMgr = s.power.mgr ∧ t.power.winCap = s.power.cap ∧ t.power.rvkPace = s.power.rvkCause ∧
  t.power.protoPace = s.power.protoCause ∧ t.power.guardPace = s.power.guardOn ∧ t.power.windowTicks = 0 ∧
  ∀ e : EngineId, (vAt t.engines e).issued = 0

/-- R211: VDD_U in the sprint region without an acknowledged code for it: counted, raised, and paced at once. -/
def Unlicensed (s t : State) : Prop :=
  t.power.protoPace = true ∧ t.power.protoCause = true ∧ t.power.proto = satAdd s.power.proto 1 ∧ BudgetIs t.power ∧
  (vAt t.hdr 10).istat.getLsbD 5 = true ∧ HeadersGrow s t ∧ TraceGrows s t

/-- R24, R176, R210: the VTARGET held from RESET or CALIBRATE is answered as CALIBRATE ends: with its own code when it is in range and no sprint
code, and then the current model is its; a sprint code with 0x3E and a code out of range with 0x3F, with no effect. No grant and no margin
session is in force then. -/
def HeldAnswered (s t : State) : Prop :=
  let keeps : Prop := t.power.vack = s.power.vack
  t.power.heldV = none ∧ (s.power.heldV = none → t.pmOut = s.pmOut ∧ keeps) ∧
  ∀ c, s.power.heldV = some c → SprintInv s →
    let own : Prop := 7 ≤ c.toNat ∧ c.toNat ≤ 0x19
    (own → t.pmOut = s.pmOut ++ [.vack c] ∧ t.power.vack = c ∧ t.power.model = c) ∧
    (¬own → keeps ∧ t.pmOut = s.pmOut ++ [.vack (if 7 ≤ c.toNat ∧ c.toNat ≤ 0x2D then 0x3E else 0x3F)])

/-- R237: what a mismatch of sequence number q does once both hashes are retired: counted, recorded and raised; HOLD from RUN under
on_mismatch. -/
def Mismatched (s t : State) (q : BitVec 16) : Prop :=
  t.twin = { s.twin with misCnt := satAdd s.twin.misCnt 1, missValid := true, missSeq := if s.twin.missValid then s.twin.missSeq else q } ∧
  t.exc.flags = s.exc.flags ||| 0x800#12 ∧ vAt t.exc.evCnt 11 = satAdd (vAt s.exc.evCnt 11) 1 ∧
  (vAt t.hdr 13).istat.getLsbD 0 = true ∧ t.unit = (if s.twin.onMismatch = true ∧ s.unit = .run then .hold else s.unit) ∧
  TracedFirst s t s.trace.ctrl 5 (trEntry s 0x29 3 0 (q.zeroExtend 32) 1) ∧ HeadersGrow s t ∧
  { t with unit := s.unit, exc := s.exc, hdr := s.hdr, trace := s.trace, twin := s.twin,
           power := { t.power with sprintReq := s.power.sprintReq, granted := s.power.granted } } = s

/-- R238, R239: what twin mode leaves when it ends: both bits clear, n uncompared hashes counted, nothing held on either side, and UM_TW_SEQ,
the pending counts and both hash registers read 0. -/
def TwinLeft (s t : State) (n : Nat) : Prop :=
  t.twin = { s.twin with enable := false, active := false, uncmp := satAdd s.twin.uncmp n, own := [], part := [], stream := [],
                         nextTx := 0, nextCmp := 0, hash := 0, hashHi := 0 } ∧
  (s.unit ≠ .off → readReg t 0xD048 = 0 ∧ readReg t 0xD058 = 0 ∧ readReg t 0xD05C = 0 ∧ readReg t 0xD044 &&& 0x7F7F00#32 = 0)

/-! ### The registers without a command of their own (Tables 6-3, 6-4, 6-7, 11-8 to 11-10, 12-7, 12-10, 13-5, 14-4 to 14-6, 15-3, 15-6) -/

/-- The bits that an RW register of a window offset holds; none for any other offset. -/
def rwMask (off : Nat) : Option Word :=
  if off % 0x1000 = 0x014 then some 0xFFFF
  else if off % 0x1000 = 0x020 ∨ off % 0x1000 = 0x024 then some 0xFFFFFFFF
  else if 0x1100 ≤ off ∧ off < 0x1900 ∧ off % 0x20 = 8 then some 0xFFFF
  else if offIn off 0x8080 12 then some 0xFFFFFFFF
  else
    match off with
    | 0x4044 => some 0x0000013F
    | 0x6040 => some 0x03FF03FF
    | 0x6044 => some 0x00FF7FFF
    | 0x604C => some 0xFFFFFFFF
    | 0x7048 => some 0x03FFFFFF
    | 0x8044 => some 0x00000FFF
    | 0x8048 | 0x804C | 0x8050 => some 0xFFFFFFFF
    | 0x9040 => some 0x0000001F
    | 0xA040 => some 0x00000001
    | 0xA060 => some 0x000003FF
    | 0xA06C | 0xA070 => some 0xFFFFFFFF
    | 0xB080 => some 0x000000FF
    | 0xB098 => some 0xFFFFFFFF
    | 0xC048 => some 0x000000FF
    | 0xD050 | 0xD054 => some 0xFFFFFFFF
    | 0xE040 => some 0x0000013F
    | 0xE044 | 0xE048 => some 0xFFFFFFFF
    | 0xE04C => some 0x000103FF
    | 0xE054 => some 0x03FFFFFF
    | 0xF040 => some 0x0000FF03
    | 0xF050 => some 0xFFFFFFFF
    | _ => none

/-- The unit states that take a write of such a register (Table 11-5, R246). -/
def rwTakes (off : Nat) (u : UnitState) : Bool :=
  let running := u == .idle || u == .run || u == .drain || u == .hold
  if off % 0x1000 < 0x040 ∨ off / 0x1000 = 8 ∨ off = 0xF050 then u != .off
  else if 10 ≤ off / 0x1000 ∧ off / 0x1000 ≤ 13 then running || u == .fault
  else running

/-! ### Status registers (Tables 2-8, 11-6, 13-5, 15-2, 15-3) -/

/-- R244, Table 15-3: what busy of a page shows. -/
def PageIsBusy (s : State) (p : Nat) : Prop :=
  match p with
  | 0 => s.unit = .reset ∨ s.unit = .calibrate ∨ s.unit = .bist
  | 1 => ∃ g, (s.guest g).state = .draining
  | 2 => s.ctx0 ≠ none ∨ s.ctx1 ≠ none
  | 3 => s.ovWin ≠ none
  | 4 => s.cellar.stBlend = true ∨ s.cellar.stDq8 = true ∨ s.cellar.stDq4 = true
  | 6 => ∃ k, slotPinned s k = true
  | 7 => s.vint.window ≠ none ∨ s.vint.xfer ≠ none
  | 10 => s.power.rvkPace = true ∨ s.power.guardPace = true ∨ s.power.protoPace = true
  | 11 => s.health.warn ≠ 0
  | 12 => s.unit = .bist
  | 13 => s.twin.active = true
  | 14 => s.tasting.save ≠ none
  | 15 => s.trace.stepping = true ∨ (s.trace.stopped = false ∧
      (s.trace.ctrl.getLsbD 0 = true ∨ ∃ b c, s.ctx b = some c ∧ c.trCtrl.getLsbD 0 = true))
  | _ => False

/-- UM_PAGE_CAP (Table 15-3). -/
def pageCaps : List Word :=
  [0x00124010, 0x0000FC40, 0x00000040, 0x00004008, 0x0000FF07, 0x00000200, 0x00400400, 0x00008010, 0x0000000C, 0x00004008, 0x0000010C,
   0x00000104, 0x00000FFF, 0x00000040, 0x00000440, 0x00000880]

/-- R23, R44, R173, R224, R244: what the status registers show: UM_PAGE_CAP, UM_PAGE_STAT, UM_GSTAT, UM_GS_STATE, UM_GS_INDEX and
UM_PW_STAT. -/
def StatusReads : Prop :=
  ∀ s : State, s.unit ≠ .off →
    let unitCode : Nat :=
      match s.unit with
      | .off => 0 | .reset => 1 | .calibrate => 2 | .bist => 3 | .idle => 4 | .run => 5 | .drain => 6 | .hold => 7 | .fault => 8
    let guestCode (g : GuestId) : Nat := match (s.guest g).state with | .detached => 0 | .active => 1 | .paused => 2 | .draining => 3
    (∀ p : PageId, readReg s (winOff p.toNat 0x008) = pageCaps.getD p.toNat 0 ∧
      let w := readReg s (winOff p.toNat 0x010)
      w &&& 0xFFFFFFF8#32 = 0 ∧ w.getLsbD 1 = (vAt s.hdr p).errValid ∧ (w.getLsbD 2 = true ↔ PageIsBusy s p.toNat) ∧
      (w.getLsbD 0 = true ↔ readReg s (winOff p.toNat 0x018) &&& readReg s (winOff p.toNat 0x014) ≠ 0)) ∧
    (let w := readReg s 0x0044
     (w.extractLsb' 0 4).toNat = unitCode ∧ w.getLsbD 4 = s.retention ∧
     (w.extractLsb' 5 2).toNat = (if s.ctx0 = none then 0 else 1) + (if s.ctx1 = none then 0 else 1) ∧
     w.extractLsb' 8 2 = s.resetCause ∧ w.extractLsb' 16 8 = s.faultCause ∧ w &&& 0xFF00FC80#32 = 0) ∧
    (∀ g : GuestId,
      (readReg s (winOff 2 (0x100 + 0x10 * g.toNat))).toNat = guestCode g + ((s.guest g).tail - (s.guest g).head).toNat * 2 ^ 16 ∧
      (readReg s (winOff 2 (0x100 + 0x10 * g.toNat + 4))).toNat = (s.guest g).head.toNat + (s.guest g).started.toNat * 2 ^ 16) ∧
    let w := readReg s 0xA044
    w.extractLsb' 0 6 = s.power.vack ∧ w.getLsbD 8 = s.power.sprintReq ∧ w.getLsbD 9 = s.power.granted ∧
    w.getLsbD 10 = s.power.rvkPace ∧ w.getLsbD 11 = s.power.guardPace ∧ w.getLsbD 12 = s.power.protoPace ∧
    w.getLsbD 13 = s.power.clamped ∧ w.getLsbD 14 = s.power.accountOk ∧ w.getLsbD 15 = s.power.hot ∧
    w.getLsbD 16 = s.power.vsprint ∧ w.getLsbD 17 = s.power.holdoff ∧ w &&& 0xFFFC00C0#32 = 0

/-- R2, R44, R110, R111, R119, R186, R189, R204, R224, R226-R233, R239, R249-R252, R254, R257, R258: what the other status fields and
read-only registers show, page by page. How UM_DBG_STAT.left counts an engine without work, and what an engine shows between two rows, is
log 81. -/
def InfoReads : Prop :=
  ∀ s : State, s.unit ≠ .off →
    let rd (page off : Nat) : Nat := (readReg s (winOff page off)).toNat
    let bit (page off k : Nat) : Bool := (readReg s (winOff page off)).getLsbD k
    let n (b : Bool) : Nat := if b then 1 else 0
    -- pages 1 and 2
    rd 1 0x040 = s.arbPtr.toNat + s.arbCredit.toNat * 2 ^ 8 ∧
    (∀ g : GuestId, rd 1 (0x100 + 0x20 * g.toNat) = (s.guest g).base.toNat ∧
      rd 1 (0x104 + 0x20 * g.toNat) = (s.guest g).log2Size.toNat + (s.guest g).weight.toNat * 2 ^ 8 + n (s.guest g).stopOnReject * 2 ^ 16 ∧
      rd 1 (0x10C + 0x20 * g.toNat) = (s.guest g).tail.toNat ∧
      readReg s (winOff 2 (0x108 + 0x10 * g.toNat)) = (s.guest g).last ∧ readReg s (winOff 2 (0x10C + 0x10 * g.toNat)) = (s.guest g).first ∧
      rd 8 (0x100 + 4 * g.toNat) = (s.guest g).flags.toNat ∧
      (∀ w : BitVec 3, readReg s (winOff 9 (0x800 + 0x20 * g.toNat + 4 * w.toNat)) = vAt (s.guest g).mbox w) ∧
      bit 2 (0x048 + 4 * (g.toNat / 32)) (g.toNat % 32) = decide ((s.guest g).state ≠ .detached) ∧
      bit 2 (0x040 + 4 * (g.toNat / 32)) (g.toNat % 32) = s.done.getLsbD g.toNat ∧
      bit 9 (0x044 + 4 * (g.toNat / 32)) (g.toNat % 32) = s.ready.getLsbD g.toNat) ∧
    readReg s 0x2050 = s.exec0 ∧ readReg s 0x2054 = s.exec1 ∧ rd 2 0x058 = s.exIdx0.toNat + s.exIdx1.toNat * 2 ^ 16 ∧
    -- page 3
    rd 3 0x040 = s.ovSel.toNat ∧ (∀ k : BitVec 3, rd 3 (0x080 + 4 * k.toNat) = (vAt s.overlays k).count.toNat) ∧
    (∀ k : BitVec 3, bit 3 0x044 (16 + k.toNat) = true ↔ ∃ b c, s.ctx b = some c ∧ rOverlay c.it = k.toNat + 1) ∧
    (readReg s 0x3044).extractLsb' 8 6 = s.ovBad ∧ bit 3 0x044 0 = s.ovWin.isSome ∧
    (∀ w, s.ovWin = some w → (readReg s 0x3044).extractLsb' 4 3 = w.sel ∧ rd 3 0x048 = w.copy.count.toNat ∧
      ∀ i : BitVec 7, readReg s (winOff 3 (0x200 + 4 * i.toNat)) = vAt w.copy.ents i) ∧
    (s.ovWin = none → rd 3 0x048 = 0 ∧ ∀ i : BitVec 7, rd 3 (0x200 + 4 * i.toNat) = 0) ∧
    -- page 4
    readReg s 0x4040 = s.cellar.gen ∧
    (∀ t, t < 16 → bit 4 0x04C t = staging s.cellar t ∧ bit 4 0x050 t = activeBank s.cellar t ∧
      (bit 4 0x050 (16 + t) = true ↔ ∃ b c, s.ctx b = some c ∧ pinnedBank c t ≠ activeBank s.cellar t)) ∧
    (bit 4 0x04C 16 = true ↔ ∀ slot w, 32 ≤ slot → slot < 64 → w < 32 → blendWord s.cellar s.cellar.actBlend slot w = 0) ∧
    bit 4 0x04C 17 = (if s.cellar.actDq8 then s.cellar.emDq8B else s.cellar.emDq8A) ∧
    bit 4 0x04C 18 = (if s.cellar.actDq4 then s.cellar.emDq4B else s.cellar.emDq4A) ∧ rd 4 0x04C < 2 ^ 19 ∧
    -- pages 6 and 7
    (∀ k : SlotId, bit 6 (0x080 + 4 * (k.toNat / 32)) (k.toNat % 32) = decide ((vAt (vAt s.vint.slots k) 0).extractLsb' 0 5 ≠ 0) ∧
      (bit 6 (0x100 + 4 * (k.toNat / 32)) (k.toNat % 32) = true ↔ ∃ e ∈ s.entries, e.pin = some k)) ∧
    rd 7 0x040 = s.vint.ctrlSlot.toNat ∧
    rd 7 0x044 = n s.vint.window.isSome + n s.vint.xfer.isSome * 2 + (match s.vint.window with | some w => w.slot.toNat | none => 0) * 2 ^ 16 ∧
    rd 7 0x04C = s.vint.xfirst.toNat + s.vint.xcountM1.toNat * 2 ^ 10 + s.vint.xop.toNat * 2 ^ 20 ∧
    (∀ w, s.vint.window = some w → (∀ i : BitVec 4, readReg s (winOff 7 (0x100 + 4 * i.toNat)) = vAt w.record i) ∧
      ∀ i, i < 128 → readReg s (winOff 7 (0x200 + 4 * i)) = w.map.extractLsb' (32 * i) 32) ∧
    (s.vint.window = none → (∀ i, i < 16 → rd 7 (0x100 + 4 * i) = 0) ∧ ∀ i, i < 128 → rd 7 (0x200 + 4 * i) = 0) ∧
    -- pages 8, 10 and 11
    rd 8 0x040 = s.exc.flags.toNat ∧ rd 8 0x054 = s.exc.sramArray.toNat + s.exc.sramIndex.toNat * 2 ^ 8 + n s.exc.sramValid * 2 ^ 31 ∧
    rd 10 0x048 = s.power.osc.toNat ∧ rd 10 0x04C = s.power.nombeats.toNat ∧
    rd 10 0x050 = s.power.mgr.toNat + s.power.eff.toNat * 2 ^ 16 ∧ rd 10 0x054 = s.power.cap.toNat ∧ rd 10 0x058 = s.power.iest.toNat ∧
    rd 10 0x05C = s.power.tj.toNat ∧ readReg s 0xA064 = s.power.sprUsed ∧ readReg s 0xA068 = s.power.sprLim ∧
    (∀ e : EngineId, let k := vAt s.health.can e
      rd 11 (0x040 + 4 * e.toNat) = k.reading.toNat + k.low.toNat * 2 ^ 8 + k.expect.toNat * 2 ^ 16) ∧
    rd 11 0x084 = s.health.warn.toNat + s.health.lost.toNat * 2 ^ 16 ∧ readReg s 0xB088 = s.health.used ∧
    readReg s 0xB08C = s.health.life ∧ rd 11 0x090 = s.health.ravg.toNat ∧ rd 11 0x09C = n s.health.ledgerOk ∧
    -- page 12
    rd 12 0x040 = s.test.guard.toNat + s.test.sweepMax.toNat * 2 ^ 8 ∧ rd 12 0x044 = s.test.vreqCode.toNat + n s.test.vreqEn * 2 ^ 8 ∧
    rd 12 0x04C = s.test.biPass.toNat + s.test.biFail.toNat * 2 ^ 8 ∧ readReg s 0xC050 = s.test.biInfo ∧ readReg s 0xC054 = s.test.biTicks ∧
    (∀ e : EngineId, rd 12 (0x080 + 4 * e.toNat) = s.test.edge.toNat / 16 ^ e.toNat % 16) ∧
    -- pages 13 and 14
    rd 13 0x040 = n s.twin.enable + s.twin.guest.toNat * 2 ^ 8 + n s.twin.onMismatch * 2 ^ 16 ∧
    (TwinInv s → rd 13 0x044 =
      (Config.instanceNo ^^^ 1#3).toNat + n s.twin.active * 2 ^ 4 + s.twin.own.length * 2 ^ 8 + s.twin.part.length * 2 ^ 16) ∧
    rd 13 0x048 = s.twin.nextTx.toNat + s.twin.nextCmp.toNat * 2 ^ 16 ∧
    rd 13 0x04C = s.twin.missSeq.toNat + n s.twin.missValid * 2 ^ 31 ∧ rd 13 0x058 = s.twin.hash.toNat % 2 ^ 32 ∧
    rd 14 0x058 = n s.tasting.save.isSome ∧
    (∀ r, (s.tasting.selKind = true ∧ s.tasting.selIndex.toNat < 64 ∧ r = vAt s.tasting.guests (s.tasting.selIndex.extractLsb' 0 6)) ∨
        (s.tasting.selKind = false ∧ r = vAt s.tasting.slots s.tasting.selIndex) →
      (∀ x ∈ [(0, r.tiles), (1, r.nCmp), (2, r.nZeroed % 2 ^ 16 + r.nClipped * 2 ^ 16), (3, r.convMax), (4, r.convSum), (6, r.fnMax),
        (7, r.fnNan), (8, r.fnSum)], rd 14 (0x100 + 4 * x.1) = x.2 % 2 ^ 32) ∧
      ∀ k, 10 ≤ k → k < 16 → rd 14 (0x100 + 4 * k) = 0) ∧
    -- page 15
    (s.trace.count ≤ 128 → rd 15 0x044 =
      s.trace.next.toNat + s.trace.count * 2 ^ 8 + n s.trace.wrapped * 2 ^ 16 + n s.trace.stopped * 2 ^ 17) ∧
    readReg s 0xF04C = s.trace.ticks ∧ rd 15 0x054 = (if s.trace.dbgBeats = 0 then 1 else s.trace.dbgBeats.toNat) ∧
    (∃ left : Nat, rd 15 0x058 = n s.trace.stepping + left * 2 ^ 16 ∧ (∀ e : EngineId, (vAt s.engines e).stepLeft.toNat ≤ left) ∧
      ∃ e : EngineId, (vAt s.engines e).stepLeft.toNat = left) ∧
    (∀ i : BitVec 7, let x := vAt s.trace.ents i
      readReg s (winOff 15 (0x800 + 16 * i.toNat)) = x.w0 ∧ readReg s (winOff 15 (0x804 + 16 * i.toNat)) = x.w1 ∧
      readReg s (winOff 15 (0x808 + 16 * i.toNat)) = x.w2 ∧ readReg s (winOff 15 (0x80C + 16 * i.toNat)) = x.w3) ∧
    ∀ e : EngineId,
      let x := vAt s.engines e
      let w := readReg s (winOff 15 (0x080 + 4 * e.toNat))
      let stopped : Prop := s.unit = .fault ∨ (s.unit = .hold ∧ s.trace.stepping = false)
      (w.getLsbD 5 = true ↔ s.power.eff.toNat ≤ x.issued ∧ (s.power.eff = 0xFFFF → s.power.protoPace = true)) ∧
      (x.shown = .none → w &&& 0xFFFFFFDF#32 = 0) ∧
      (x.shown ≠ .none → w.getLsbD 3 = x.ctx ∧ w.getLsbD 4 = x.waiting ∧ w &&& 0xC0#32 = 0 ∧
        (stopped → w.extractLsb' 0 3 = 7) ∧
        (¬stopped → (w.extractLsb' 0 3).toNat =
          match x.shown with | .none => 0 | .pass1 => 1 | .turnaround => 2 | .pass2 => 3 | .racking => 4 | .first => 5 | .column => 6) ∧
        ∀ c, s.ctx x.ctx = some c → w.extractLsb' 8 24 =
          BitVec.ofNat 24 (if isCol c.it then x.row / 16 % ((rD0 c.it + 1023) / 1024) else x.row))

/-! ### The check of a slot record (R102, R111, Table 6-2) -/

/-- Table 6-2: a policy word holds a reserved value: fmt 0, 1 or 8-15, cold 2 or 3, a bit of [15] or [31:24], v_seed 0x80 or 0x81. -/
def PolicyReserved (p : Word) : Prop :=
  (p.extractLsb' 8 4).toNat < 2 ∨ 7 < (p.extractLsb' 8 4).toNat ∨ 1 < (p.extractLsb' 12 2).toNat ∨ p.getLsbD 15 = true ∨
  p.extractLsb' 24 8 ≠ 0 ∨ p.extractLsb' 16 8 = 0x80 ∨ p.extractLsb' 16 8 = 0x81

/-- R102: history entry i is one of the count newest. -/
def ValidEntry (r : SlotRec) (i : Nat) : Prop :=
  ∃ k, k < ((vAt r 0).extractLsb' 0 5).toNat ∧ i = (((vAt r 0).extractLsb' 8 4).toNat + 16 - k) % 16

/-- R111: one of the five conditions under which the check of a record fails. -/
def RecordFails (r : SlotRec) : Prop :=
  let w (k : BitVec 4) : Word := vAt r k
  let entry (i : Nat) : Nat := ((w (BitVec.ofNat 4 (4 + i / 2))).extractLsb' (16 * (i % 2)) 16).toNat
  16 < ((w 0).extractLsb' 0 5).toNat ∨
  (w 0 &&& 0xFFFFF0E0#32 ≠ 0 ∨ w 2 &&& 0xFF00FF00#32 ≠ 0 ∨ (∃ k : BitVec 4, 12 ≤ k.toNat ∧ w k ≠ 0) ∨ PolicyReserved (w 1)) ∨
  (∃ e : BitVec 8, (e = 0x80 ∨ e = 0x81) ∧ (e = (w 2).extractLsb' 0 8 ∨ e = (w 2).extractLsb' 16 8 ∨ e = (w 1).extractLsb' 16 8)) ∨
  (∃ i, i < 16 ∧ ValidEntry r i ∧ 0x7F7F < entry i) ∨
  ∃ i, i < 16 ∧ ¬ValidEntry r i ∧ entry i ≠ 0

/-- R102, R110, R111, Table 6-2: which policy words and which records pass. -/
def RecordCheck : Prop :=
  (∀ p : Word, policyOk p = true ↔ ¬PolicyReserved p) ∧ ∀ r : SlotRec, recordOk r = true ↔ ¬RecordFails r

/-! ### The check of a BLEND image (R56-R58, R61) -/

/-- A row of Table 3-5: the opcode, its slot class (0 core, 1 arithmetic, 2 logic), whether it reads b and c, whether it allows na and aa,
and nc, and the largest imm that it defines. -/
structure OpRow where
  op : Nat
  slot : Nat
  readsB : Bool
  readsC : Bool
  modA : Bool
  modC : Bool
  immMax : Nat

/-- Table 3-5. -/
def table35 : List OpRow :=
  let row (op slot : Nat) (b c m n : Nat) (imm : Nat) : OpRow := ⟨op, slot, b == 1, c == 1, m == 1, n == 1, imm⟩
  [row 0x01 0 1 0 1 0 0, row 0x02 0 0 0 1 0 0, row 0x03 0 0 0 1 0 0, row 0x04 0 0 0 1 0 0,
   row 0x10 1 1 1 1 1 0, row 0x11 1 1 0 1 0 0, row 0x12 1 0 1 1 1 0, row 0x13 1 1 0 1 0 0, row 0x14 1 0 0 1 0 3,
   row 0x20 2 0 0 1 0 0, row 0x21 2 1 0 1 0 0, row 0x22 2 1 0 1 0 0, row 0x23 2 1 0 1 0 6, row 0x24 2 1 1 0 1 0,
   row 0x25 2 0 0 0 0 63, row 0x26 2 1 0 0 0 0, row 0x27 2 0 0 1 0 0, row 0x28 2 1 0 0 0 0, row 0x29 2 1 0 0 0 0, row 0x2A 2 1 0 0 0 0]

/-- R58: an instruction word with a reserved opcode or imm, or a field or modifier that its operation does not allow. -/
def BadInstr (x : Word) : Prop :=
  ∀ r ∈ table35, (x.extractLsb' 26 6).toNat = r.op →
    (r.readsB = false ∧ x.extractLsb' 15 4 ≠ 0) ∨ (r.readsC = false ∧ x.extractLsb' 11 4 ≠ 0) ∨
    (r.modA = false ∧ (x.getLsbD 10 = true ∨ x.getLsbD 8 = true)) ∨ (r.modC = false ∧ x.getLsbD 9 = true) ∨
    r.immMax < (x.extractLsb' 0 6).toNat

/-- R61: word w of an image fails: the header, an instruction (of a CONV image also the one that exceeds its budget, log 24), or a word that
R56 requires to be zero. -/
def BadWord (img : Nat → Word) (w : Nat) : Prop :=
  let h := img 0
  let count := (h.extractLsb' 0 5).toNat
  let nin := (h.extractLsb' 5 2).toNat
  let nout := (h.extractLsb' 7 2).toNat
  let kind := (h.extractLsb' 9 2).toNat
  let upTo (slot : Nat) : Nat :=
    ((List.range (w + 1)).filter fun k => decide (5 ≤ k) && table35.any fun r => r.slot == slot && r.op == ((img k).extractLsb' 26 6).toNat).length
  (w = 0 ∧ (h.extractLsb' 11 21 ≠ 0 ∨ count = 0 ∨ 24 < count ∨ nin = 0 ∨ nout = 0 ∨ nout = 3 ∨ (kind ≠ 0 ∧ (nin ≠ 1 ∨ nout ≠ 1)))) ∨
  (5 ≤ w ∧ w < 5 + count ∧ (BadInstr (img w) ∨ (kind = 3 ∧ (0 < upTo 0 ∨ 2 < upTo 1 ∨ 1 < upTo 2)))) ∨
  (5 ≤ w ∧ w < 32 ∧ 5 + count ≤ w ∧ img w ≠ 0)

/-- R61: word w of user slot `slot` of the staged BLEND bank fails; a slot whose words are all zero is empty and passes. -/
def BadUser (c : Cellar) (slot w : Nat) : Prop :=
  let img := blendWord c (!c.actBlend) slot
  32 ≤ slot ∧ slot < 64 ∧ w < 32 ∧ (∃ k, k < 32 ∧ img k ≠ 0) ∧ BadWord img w

/-- R61: the check names the lowest failing slot and its lowest failing word. -/
def ImageCheck (c : Cellar) : Prop :=
  (badImage c = none ↔ ∀ slot w, ¬BadUser c slot w) ∧
  ∀ slot w, badImage c = some (slot, w) ↔
    BadUser c slot w ∧ (∀ v, v < w → ¬BadUser c slot v) ∧ ∀ j v, j < slot → ¬BadUser c j v

/-! ### Table 2-7: which record gives which reason -/

/-- A cell of Table 2-5. -/
inductive Cell where
  | required | optional | absent | mask | dataOrMask | beta | length
deriving DecidableEq, Repr

/-- The operand columns of Table 2-5: in0, in1, in2, out0, out1. A reserved class is rejected before they are read. -/
def table25 (k : Cls) (o : Opd) : Cell :=
  let row : List Cell :=
    match k with
    | .elem => [.required, .optional, .dataOrMask, .required, .optional]
    | .gate => [.required, .required, .mask, .required, .absent]
    | .normFwd => [.required, .required, .beta, .required, .optional]
    | .normBwd => [.required, .required, .required, .required, .absent]
    | .stat => [.required, .absent, .mask, .optional, .optional]
    | .dot => [.required, .required, .mask, .required, .absent]
    | .smax => [.required, .absent, .mask, .required, .optional]
    | .lse => [.required, .absent, .mask, .required, .absent]
    | .xent => [.required, .required, .mask, .required, .optional]
    | .conv => [.required, .absent, .mask, .required, .absent]
    | .amax => [.required, .absent, .mask, .optional, .absent]
    | .perm => [.required, .required, .length, .required, .absent]
    | .reserved => [.required, .absent, .mask, .required, .absent]
  row.getD o.pos .absent

/-- The presence of an operand agrees with its cell, with the notes of Table 2-5. -/
def Cell.agrees (k : Cell) (r : Record) (here : Bool) : Prop :=
  match k with
  | .required => here = true
  | .optional => True
  | .absent => here = false
  | .mask => (rMaskMode r = 1 → here = true) ∧ (rMaskMode r ≠ 1 → rMaskMode r ≠ 4 → here = false)
  | .dataOrMask => rMaskMode r = 1 → here = true
  | .beta => here = !rRms r
  | .length => rMaskMode r ≠ 4 → here = false

/-- in2 holds the mask or the length of the rows. -/
def MaskHere (r : Record) (o : Opd) : Prop :=
  o = .in2 ∧ (rMaskMode r = 1 ∨ rMaskMode r = 4 ∧ rHas r .in2 = true) ∧ rCls r ≠ .normFwd ∧ rCls r ≠ .normBwd

/-- The operand is marked (row) in Table 2-5. -/
def RowHere (r : Record) (o : Opd) : Prop :=
  match o, rCls r with
  | .out0, .stat | .out0, .dot | .out0, .lse | .out0, .xent | .out0, .amax => True
  | .out1, .stat | .out1, .normFwd | .out1, .smax => True
  | _, _ => False

/-- Table 2-4 and R32 do not allow the format or the scale mode of a present operand. -/
def BadFormat (r : Record) (o : Opd) (d : Desc) : Prop :=
  let f := (dFmtCode d).toNat
  let m := dScale d
  (o.isOut = true ∧ 7 < f) ∨
  (o.isOut = false ∧
    (if o = .in1 ∧ (rCls r = .xent ∨ rCls r = .perm) then f ≠ 10
     else (MaskHere r o ∧ f ≠ (if rMaskMode r = 1 then 11 else 10)) ∨ (¬MaskHere r o ∧ 9 < f))) ∨
  (m = 1 ∧ (f < 2 ∨ 7 < f)) ∨ ((m = 2 ∨ m = 3) ∧ (f < 3 ∨ 7 < f)) ∨ ((m = 4 ∨ m = 5) ∧ f ≠ 8 ∧ f ≠ 9) ∨ 5 < m ∨
  ((f = 8 ∨ f = 9) ∧ m ≠ 4 ∧ m ≠ 5) ∨
  (m ≠ 2 ∧ m ≠ 3 ∧ (dBlockCode d ≠ 0 ∨ dBlockDir d = true)) ∨
  ((m = 2 ∨ m = 3) ∧ (dRow d = true ∨ (isCol r = true ∧ RowHere r o)))

/-- The header of the named blend breaks Table 3-6. -/
def BadSignature (r : Record) (h : Word) : Prop :=
  let kind := (h.extractLsb' 9 2).toNat
  let nin := (h.extractLsb' 5 2).toNat
  let nout := (h.extractLsb' 7 2).toNat
  match rCls r with
  | .elem => kind = 2 ∨
      nin ≠ 1 + (if rHas r .in1 then 1 else 0) +
        (if rHas r .in2 = true ∧ rMaskMode r ≠ 1 ∧ rMaskMode r ≠ 4 then 1 else 0) ∨
      nout ≠ 1 + (if rHas r .out1 then 1 else 0)
  | .gate => kind ≠ 1 ∨ nin ≠ 1 ∨ nout ≠ 1
  | .stat => kind ≠ 2 ∨ nin ≠ 1 ∨ nout ≠ 1
  | _ => kind ≠ 3 ∨ nin ≠ 1 ∨ nout ≠ 1

/-- The condition of Table 2-7's row of a reason, for a record that was read whole. -/
def Fails (s : State) (r : Record) (reason : Nat) : Prop :=
  let cls := rCls r
  let mode := rMaskMode r
  let blends : Prop := cls = .elem ∨ cls = .gate ∨ cls = .stat ∨ cls = .conv
  let userEmpty : Prop := blends ∧ 32 ≤ rBlend r ∧ ∀ w, w < 32 → blendWord s.cellar s.cellar.actBlend (rBlend r) w = 0
  let share (l m : List Area) : Prop := ∃ a ∈ l, ∃ b ∈ m, a.lo < b.hi ∧ b.lo < a.hi ∧ a.lo < a.hi ∧ b.lo < b.hi
  match reason with
  | 0x01 => r.extractLsb' 28 4 ≠ 0 ∨ r.extractLsb' 378 6 ≠ 0 ∨ (∃ o, dReserved (rDesc r o) ≠ 0) ∨
      (mode ≠ 3 ∧ rMaskB r ≠ 0) ∨ ((mode = 0 ∨ mode = 1 ∨ mode = 4 ∧ rHas r .in2 = true) ∧ rMaskA r ≠ 0)
  | 0x02 => cls = .reserved ∨ rGrade r = 0 ∨ 8 < rOverlay r ∨ 4 < mode ∨ rRounding r = 3 ∨
      ∃ o, rHas r o = true ∧
        (11 < (dFmtCode (rDesc r o)).toNat ∨ 5 < dScale (rDesc r o) ∨ 5 < dBlockCode (rDesc r o) ∨ dHint (rDesc r o) = 3)
  | 0x03 => (∃ o, rHas r o = false ∧ rDesc r o ≠ 0) ∨ (∃ o, ¬(table25 cls o).agrees r (rHas r o)) ∨
      (cls = .elem ∧ rHas r .in2 = true ∧ mode ≠ 1 ∧ mode ≠ 4 ∧ rHas r .in1 = false) ∨
      (cls = .stat ∧ rHas r .out0 = false ∧ rHas r .out1 = false) ∨
      (cls = .amax ∧ rHas r .out0 = false ∧ rVslotEn r = false)
  | 0x04 => ∃ o, rHas r o = true ∧ BadFormat r o (rDesc r o)
  | 0x05 => ∃ o, rHas r o = true ∧
      ((RowHere r o ∧ isCol r = true ∧ (dRow (rDesc r o) = true ∨ dStride1 (rDesc r o) ≠ 0)) ∨
       (RowHere r o ∧ isCol r = false ∧ dRow (rDesc r o) = false) ∨
       (¬RowHere r o ∧ (dRow (rDesc r o) = true ↔ ¬(o = .in1 ∧ cls = .xent ∨ MaskHere r o ∧ mode = 4))))
  | 0x06 => ((cls = .normFwd ∨ cls = .normBwd) ∧ mode ≠ 0) ∨ (cls = .perm ∧ mode ≠ 0 ∧ mode ≠ 4) ∨ (rAxis r = true ∧ mode ≠ 0) ∨
      (mode = 3 ∧ rMaskB r < rMaskA r) ∨
      (mode ≠ 0 ∧ rFillZero r = false ∧ ∃ o : Opd, o.isOut = true ∧ rHas r o = true ∧ (dScale (rDesc r o) = 2 ∨ dScale (rDesc r o) = 3))
  | 0x07 => (rAxis r = true ∧ cls ≠ .stat ∧ cls ≠ .amax) ∨ (rRms r = true ∧ cls ≠ .normFwd ∧ cls ≠ .normBwd) ∨
      (rStrict r = true ∧ cls ≠ .smax ∧ cls ≠ .lse ∧ cls ≠ .xent)
  | 0x08 => (¬blends ∧ rBlend r ≠ 0) ∨
      (blends ∧ ¬userEmpty ∧ BadSignature r (blendWord s.cellar s.cellar.actBlend (rBlend r) 0))
  | 0x09 => (rVslotEn r = false ∧ ∃ o, rHas r o = true ∧ dScale (rDesc r o) = 1) ∨
      ∃ o p, o ≠ p ∧ rHas r o = true ∧ rHas r p = true ∧ dScale (rDesc r o) = 1 ∧ dScale (rDesc r p) = 1
  | 0x0A =>
      (∃ o, rHas r o = true ∧
        let d := rDesc r o
        let w := (dFmt d).bits
        (8 < w ∧ dBase d % (w / 8) ≠ 0) ∨ (w ≤ 8 ∧ (dStride1 d * w % 8 ≠ 0 ∨ dStride2 d * w % 8 ≠ 0 ∨ dStride3 d * w % 8 ≠ 0))) ∨
      (rSummary r ≤ 1 ∧ rSumBase r ≠ 0) ∨ (2 ≤ rSummary r ∧ rSumBase r % 64 ≠ 0)
  | 0x0B =>
      ((cls = .normFwd ∨ cls = .normBwd) ∧
        ((f32Val (rParam r)).isFin = false ∨ (f32Val (rParam r)).lt (.zero false) = true)) ∨
      ((cls = .smax ∨ cls = .lse ∨ cls = .xent) ∧
        ((f32Val (rParam r)).isFin = false ∨ (XVal.zero false).lt (f32Val (rParam r)) = false)) ∨
      ((cls = .dot ∨ cls = .amax ∨ cls = .perm) ∧ rParam r ≠ 0)
  | 0x20 => 2 ^ 40 < rD0 r * rD1 r * rD2 r * rD3 r
  | 0x21 => ∃ a ∈ allAreas r, 0x3000000 < a.hi
  | 0x22 => share (opdAreas r .out0) (opdAreas r .out1) ∨
      (∃ a, sumArea r = some a ∧ ∃ o, share [a] (opdAreas r o)) ∨
      ∃ o i : Opd, o.isOut = true ∧ i.isOut = false ∧ share (opdAreas r o) (opdAreas r i) ∧
        (cls = .perm ∨ 1 < dScale (rDesc r o) ∨ 1 < dScale (rDesc r i) ∨ dBase (rDesc r o) ≠ dBase (rDesc r i) ∨
         dFmtCode (rDesc r o) ≠ dFmtCode (rDesc r i) ∨ dRow (rDesc r o) ≠ dRow (rDesc r i) ∨
         dStride1 (rDesc r o) ≠ dStride1 (rDesc r i) ∨ dStride2 (rDesc r o) ≠ dStride2 (rDesc r i) ∨
         dStride3 (rDesc r o) ≠ dStride3 (rDesc r i))
  | 0x23 => ∃ g, (s.guest g).state ≠ .detached ∧
      share (ringAreas r) [⟨(s.guest g).base.toNat, (s.guest g).base.toNat + 2 ^ (s.guest g).log2Size.toNat * 128⟩]
  | 0x30 => userEmpty
  | 0x31 => ∃ o, rHas r o = true ∧ dScale (rDesc r o) = 4 ∧
      (if dFmtCode (rDesc r o) = 8 then (if s.cellar.actDq8 then s.cellar.emDq8B else s.cellar.emDq8A)
       else (if s.cellar.actDq4 then s.cellar.emDq4B else s.cellar.emDq4A)) = true
  | 0x32 => rGenExpect r ≠ 0 ∧ rGenExpect r ≠ s.cellar.gen.toNat % 256
  | 0x40 => rVslotEn r = true ∧ slotOpen s (rVslot r).toNat = true
  | 0x41 => ∃ w, s.ovWin = some w ∧ rOverlay r = w.sel.toNat + 1
  | _ => False

/-- The reasons of Table 2-7 after 0x0F, in check order, with their statuses. -/
def table27 : List (Nat × BitVec 3) :=
  [(0x01, stBadField), (0x02, stBadField), (0x03, stBadField), (0x04, stBadField), (0x05, stBadField), (0x06, stBadField),
   (0x07, stBadField), (0x08, stBadField), (0x09, stBadField), (0x0A, stBadField), (0x0B, stBadField), (0x20, stBadRange),
   (0x21, stBadRange), (0x22, stBadRange), (0x23, stBadRange), (0x30, stStale), (0x31, stStale), (0x32, stStale),
   (0x40, stIllegal), (0x41, stIllegal)]

/-! ### What a beat does -/

/-- What a beat of engine e may change: its engine, the itinerary's context, the write FIFO, and the beat counter of engine 0. -/
def BeatFrame (s t : State) (e : EngineId) : Prop :=
  (∀ k, k ≠ e → vAt t.engines k = vAt s.engines k) ∧ s.wfifo <+: t.wfifo ∧
  ((vAt t.engines e).issued = (vAt s.engines e).issued ∨ (vAt t.engines e).issued = (vAt s.engines e).issued + 1) ∧
  t.power.beats = (if e = 0 ∧ (vAt t.engines e).issued = (vAt s.engines e).issued + 1 then s.power.beats + 1 else s.power.beats) ∧
  (∀ b, (s.ctx b = none → t.ctx b = none) ∧
    ∀ c, s.ctx b = some c → ∃ d, t.ctx b = some d ∧ d.it = c.it ∧ d.guest = c.guest ∧ d.index = c.index ∧ d.gen = c.gen) ∧
  { t with engines := s.engines, wfifo := s.wfifo, ctx0 := s.ctx0, ctx1 := s.ctx1, power := { t.power with beats := s.power.beats } } = s

/-- R36, R53, R54, R62, R142, R198, R212: what a BEAT that may be issued does for the row or the column unit its engine serves. A slice spends
its beats, and the last of them computes: an accumulating pass takes the slice's elements into the row state, a column walk takes one
element into every lane, and a writing pass issues the slice's bytes, or waits as it was when they do not fit the write FIFO. What the beat
reads is noted first (R14, R18, R69). -/
def BeatWork (s : State) (e : EngineId) : Prop :=
  ∀ c : Ctx,
    let x := vAt s.engines e
    canBeat s e = true → s.ctx x.ctx = some c → areasInside c.it = true → x.phase.beats = true →
    let scan := isScan c x.phase
    let d := noteReads s c (scan || x.phase == .column) (ignoredRow c x.acc) (beatReads s c x)
    let u := s.setCtx x.ctx (some d)
    ∃ t, exec (.beat e) s = .next t ∧
      (x.sub + 1 < sliceBeats s d scan →
        vAt t.engines e = { x with shown := x.phase, sub := x.sub + 1, waiting := false, issued := x.issued + 1,
                                   stepLeft := if s.unit = .hold then x.stepLeft - 1 else x.stepLeft } ∧
        t.ctx x.ctx = some { d with progress := 0 } ∧ t.wfifo = s.wfifo) ∧
      (sliceBeats s d scan ≤ x.sub + 1 → x.phase = .column →
        (vAt t.engines e).lanes = List.zipWith (fun i a => scanElem u d a { i with i1 := x.pos }) (colList d.it x.row) x.lanes ∧
        (vAt t.engines e).phase = (if x.pos + 1 < rD1 d.it then .column else .turnaround) ∧ (vAt t.engines e).pos = x.pos + 1 ∧
        (vAt t.engines e).issued = x.issued + 1 ∧ t.wfifo = s.wfifo) ∧
      (sliceBeats s d scan ≤ x.sub + 1 → x.phase ≠ .column → scan = true →
        (vAt t.engines e).acc = (sliceIdx u d x.row x.pos).foldl (scanElem u d) x.acc ∧
        (vAt t.engines e).issued = x.issued + 1 ∧ t.wfifo = s.wfifo ∧
        (x.pos + 1 < slices u d → (vAt t.engines e).phase = x.phase ∧ (vAt t.engines e).pos = x.pos + 1) ∧
        (slices u d ≤ x.pos + 1 → rCls d.it ≠ .perm → (vAt t.engines e).phase =
          if (vAt t.engines e).acc.needRack = true ∧ (vAt t.engines e).acc.nNan = 0 then .racking else .turnaround)) ∧
      (sliceBeats s d scan ≤ x.sub + 1 → x.phase ≠ .column → scan = false → x.pos + 1 < slices u d →
        let r := (sliceIdx u d x.row x.pos).foldl (fun (p : RowAcc × ByteWrites) i =>
          ((writeStep u d p.1 i).1, p.2 ++ (writeStep u d p.1 i).2)) (x.acc, [])
        (s.wfifo.length + (unitsOf x.ctx r.2).length ≤ fifoDepth →
          t.wfifo = s.wfifo ++ unitsOf x.ctx r.2 ∧ (vAt t.engines e).acc = { r.1 with stored := [] } ∧
          (vAt t.engines e).pos = x.pos + 1 ∧ (vAt t.engines e).issued = x.issued + 1) ∧
        (fifoDepth < s.wfifo.length + (unitsOf x.ctx r.2).length →
          t.wfifo = s.wfifo ∧ vAt t.engines e = { x with shown := x.phase, waiting := true })) ∧
      (sliceBeats s d scan ≤ x.sub + 1 → x.phase ≠ .column → scan = false → slices u d ≤ x.pos + 1 → d.storing = true →
        let r := (sliceIdx u d x.row x.pos).foldl (fun (p : RowAcc × ByteWrites) i =>
          ((writeStep u d p.1 i).1, p.2 ++ (writeStep u d p.1 i).2)) (x.acc, [])
        let y := emitPuts u d r.1 (if hasPass2 d.it then rowPuts d.it r.1 (rowIdx d.it x.row) else [])
        let ws := r.2 ++ (y.2 ++ rowRecordWrites d.it x.row y.1)
        s.wfifo.length + (unitsOf x.ctx ws).length ≤ fifoDepth →
          t.wfifo = s.wfifo ++ unitsOf x.ctx ws ∧ (vAt t.engines e).phase = .none ∧ (vAt t.engines e).issued = x.issued + 1 ∧
          ∃ c', t.ctx x.ctx = some c' ∧ c'.rowsDone = d.rowsDone + 1 ∧ c'.tally = d.tally.merge y.1.tally) ∧
      (sliceBeats s d scan ≤ x.sub + 1 → x.phase ≠ .column → scan = false → slices u d ≤ x.pos + 1 →
        let r := (sliceIdx u d x.row x.pos).foldl (fun (p : RowAcc × ByteWrites) i =>
          ((writeStep u d p.1 i).1, p.2 ++ (writeStep u d p.1 i).2)) (x.acc, [])
        let y := emitPuts u d r.1 (if hasPass2 d.it then rowPuts d.it r.1 (rowIdx d.it x.row) else [])
        let ws := r.2 ++ (if d.storing then y.2 ++ rowRecordWrites d.it x.row y.1 else y.2)
        fifoDepth < s.wfifo.length + (unitsOf x.ctx ws).length →
          t.wfifo = s.wfifo ∧ vAt t.engines e = { x with shown := x.phase, waiting := true } ∧ t.ctx x.ctx = some d)

/-- R36, R53: an engine that serves no row takes the next one of the oldest itinerary that has one for it, and its beat is that row's first. -/
def TakesNextRow (s : State) (e : EngineId) : Prop :=
  canBeat s e = true → (vAt s.engines e).phase = .none →
    (takeRow s e = none → exec (.beat e) s = .next s) ∧
    ∀ (b : Bool) (c : Ctx) (y : Engine), takeRow s e = some (b, c, y) → areasInside c.it = true →
      exec (.beat e) s = exec (.beat e) ((s.setCtx b (some c)).setEngine e y) ∧ y.ctx = b ∧ y.pos = 0 ∧ y.sub = 0 ∧
      y.row + 1 = c.nextRow ∧ y.phase.beats = true ∧ ∃ old, s.ctx b = some old ∧ old.nextRow = y.row ∧ old.it = c.it

/-- R142, R145, R146, R148: the turnaround of a row of a class with one pass computes the row's results and issues its (row) outputs with its
record; in column mode every lane of the unit does. The engine is free for the next row. -/
def TurnaroundWork (s : State) (e : EngineId) : Prop :=
  ∀ c : Ctx,
    let x := vAt s.engines e
    canBeat s e = true → s.ctx x.ctx = some c → areasInside c.it = true → x.phase = .turnaround →
    let free (t : State) : Prop :=
      vAt t.engines e = { Engine.empty with
        issued := x.issued + 1, stepLeft := if s.unit = .hold then x.stepLeft - 1 else x.stepLeft,
        shown := .turnaround, ctx := x.ctx, row := x.row }
    (isCol c.it = false → hasPass2 c.it = false →
      let a := rowTurn c x.acc (rowIdx c.it x.row)
      let y := emitPuts s c a (rowPuts c.it a (rowIdx c.it x.row))
      let ws := if c.storing then y.2 ++ rowRecordWrites c.it x.row y.1 else y.2
      ∃ t, exec (.rowTurnaround e) s = .next t ∧
        (s.wfifo.length + (unitsOf x.ctx ws).length ≤ fifoDepth → free t ∧ t.wfifo = s.wfifo ++ unitsOf x.ctx ws ∧
          (c.storing = true → ∃ d, t.ctx x.ctx = some d ∧ d.rowsDone = c.rowsDone + 1 ∧ d.tally = c.tally.merge y.1.tally ∧
            d.emptyRows = c.emptyRows + y.1.tally.count .emptyRow ∧
            d.icask = (match y.1.icTerm with | some v => c.icask.addValue v | none => c.icask))) ∧
        (fifoDepth < s.wfifo.length + (unitsOf x.ctx ws).length →
          t.wfifo = s.wfifo ∧ vAt t.engines e = { x with shown := .turnaround, waiting := true })) ∧
    (isCol c.it = true →
      let lanes := (List.zip (colList c.it x.row) x.lanes).map fun q => (q.1, rowTurn c q.2 q.1)
      let outs := lanes.map fun q => (q.1, emitPuts s c q.2 (rowPuts c.it q.2 q.1))
      let ws := (outs.map fun q =>
        if c.storing then q.2.2 ++ rowRecordWrites c.it ((q.1.i3 * rD2 c.it + q.1.i2) * rD0 c.it + q.1.i0) q.2.1 else q.2.2).flatten
      ∃ t, exec (.rowTurnaround e) s = .next t ∧
        (s.wfifo.length + (unitsOf x.ctx ws).length ≤ fifoDepth → free t ∧ t.wfifo = s.wfifo ++ unitsOf x.ctx ws ∧
          (c.storing = true → ∃ d, t.ctx x.ctx = some d ∧ d.rowsDone = c.rowsDone + 1 ∧
            d.tally = (outs.map fun q => q.2.1.tally).foldl Tally.merge c.tally)) ∧
        (fifoDepth < s.wfifo.length + (unitsOf x.ctx ws).length →
          t.wfifo = s.wfifo ∧ vAt t.engines e = { x with shown := .turnaround, waiting := true }))

/-! ### What an element becomes -/

/-- R39, R169, Table 1-8: the elements that each mask mode keeps; and a decision once made stands, whatever memory holds later. -/
def MaskRule : Prop :=
  ∀ (s : State) (c : Ctx) (i : Idx),
    let r := c.it
    let first := firstRead c .in2 false (itemOf r .in2 i)
    let code := readCode (readView s c) (rDesc r .in2) i
    let poisoned := elemPoisoned s.poison (rDesc r .in2) i
    (rMaskMode r = 0 → kept s c i = true) ∧
    (rMaskMode r = 1 → first = none → (kept s c i = true ↔ poisoned = false ∧ code = 1)) ∧
    (rMaskMode r = 2 → (kept s c i = true ↔ (i.i0 : Int) ≤ i.i1 + rMaskA r)) ∧
    (rMaskMode r = 3 → (kept s c i = true ↔ rMaskA r ≤ (i.i0 : Int) - i.i1 ∧ (i.i0 : Int) - i.i1 ≤ rMaskB r)) ∧
    (rMaskMode r = 4 → rHas r .in2 = false → (kept s c i = true ↔ (i.i0 : Int) < rMaskA r ∧ i.i0 < rD0 r)) ∧
    (rMaskMode r = 4 → rHas r .in2 = true → first = none →
      (kept s c i = true ↔ poisoned = false ∧ (i.i0 : Int) < signedOf 32 code ∧ i.i0 < rD0 r)) ∧
    ((maskReads r = true → first.isSome = true) → ∀ t : State, kept t c i = kept s c i)

/-- x and y differ by at most tol. -/
def Within (x y tol : XVal) : Prop := tol.lt (x.add y.negate).abs = false

/-- R55, R123: FP32 results of lane operations. MUL, ADD and FMA form their exact result and round it once: to a value within half a unit in
the last place, to an infinity from 2^128 - 2^103 up, to a zero of its sign where it rounds below 2^-126; INVALID is raised exactly where a
NaN comes of operands none of which is one (R59). -/
def LaneRule : Prop :=
  (∀ (neg : Bool) (n d : Nat), 0 < n → 0 < d →
    let x := XVal.fin neg n d
    let e := floorLog2 n d
    (x.abs.lt (.scaled false 1 e) = false ∧ x.abs.lt (.scaled false 1 (e + 1)) = true) ∧
    (x.abs.lt minNormal = false → Fmt.fp32.max.lt x.abs = false →
      (f32Val (round32 x)).isFin = true ∧ (f32Val (round32 x)).neg? = neg ∧ Within (f32Val (round32 x)) x (.scaled false 1 (e - 24))) ∧
    (x.abs.lt (.fin false (2 ^ 128 - 2 ^ 103) 1) = false → round32 x = f32Inf neg) ∧
    (x.abs.lt (.fin false (2 ^ 25 - 1) (2 ^ 151)) = true → round32 x = f32Zero neg)) ∧
  (∀ (neg : Bool) (d : Nat), round32 (.fin neg 0 d) = f32Zero neg) ∧
  ∀ a b c : Word,
    let v := f32Val
    let sound (x : XVal) (ops : List Word) (r : Word × List Flag) : Prop :=
      r.1 = round32 x ∧ (Flag.invalid ∈ r.2 ↔ x.isNan = true ∧ ∀ o ∈ ops, (v o).isNan = false) ∧ ∀ f ∈ r.2, f = .invalid
    sound ((v a).mul (v b)) [a, b] (laneMul a b) ∧ sound ((v a).add (v c)) [a, c] (laneAdd a c) ∧
    sound (((v a).mul (v b)).add (v c)) [a, b, c] (laneFma a b c)

/-- R84, R85, Table 5-1: a value rounds to the grid of its format: to nearest with ties to even, or under STOCH to one of its two neighbours;
to nearest it overflows from the threshold of Table 5-1 up, which E4M3 alone still holds. -/
def RoundRule : Prop :=
  (∀ (f : Fmt) (neg : Bool) (n d : Nat), f.isFloat = true → 0 < n → 0 < d →
    let x := XVal.fin neg n d
    let q := gridExp f n d
    let p := scaledFrac n d q
    let near := gridRound n d q none
    (XVal.fin neg p.1 p.2).eqv (x.scale2 (-q)) = true ∧
    (roundTo f none x).1 = .scaled neg near q ∧
    (2 * p.1 ≤ 2 * near * p.2 + p.2 ∧ 2 * near * p.2 ≤ 2 * p.1 + p.2) ∧
    (2 * p.1 = 2 * near * p.2 + p.2 ∨ 2 * near * p.2 = 2 * p.1 + p.2 → near % 2 = 0) ∧
    ∀ rnd, rnd < 2 ^ 16 → (roundTo f (some rnd) x).1 = .scaled neg (gridRound n d q (some rnd)) q ∧
      (gridRound n d q (some rnd) = p.1 / p.2 ∨ p.1 % p.2 ≠ 0 ∧ gridRound n d q (some rnd) = p.1 / p.2 + 1)) ∧
  ∀ (f : Fmt) (neg : Bool) (n d : Nat), f.isFloat = true → 0 < d →
    let top : Nat :=
      match f with
      | .fp32 => 4 * (2 ^ 128 - 2 ^ 103) | .bf16 => 4 * (2 ^ 128 - 2 ^ 119) | .fp16 => 4 * 65520 | .e4m3 => 4 * 464
      | .e5m2 => 4 * 61440 | .e3m2 => 4 * 30 | .e2m3 => 31 | _ => 4 * 7
    ((roundTo f none (.fin neg n d)).2 = true ↔ if f = .e4m3 then top * d < 4 * n else top * d ≤ 4 * n)

/-- R73, R76, R77: a code of 8 bits or fewer is read as its value exactly, and a value of the grid is stored as its code without a flag, a zero
as +0; what R77 stores for a NaN and for an overflow. -/
def StoreRule : Prop :=
  (∀ (f : Fmt) (sat : Bool) (code : Nat), f.isFloat = true → f.bits ≤ 8 → code < 2 ^ f.bits → f.isNanCode code = false →
    (f32Val (decodeIn f code).v).eqv (f.value code) = true ∧ (decodeIn f code).flags = [] ∧
    store f sat none (f.value code) = ⟨if (f.value code).isZero then 0 else code, [], false, false⟩) ∧
  (∀ (f : Fmt) (sat : Bool) (r : Option Nat), f.isFloat = true →
    store f sat r .nan = (if f.noNan then ⟨0, [.invalid], true, false⟩ else ⟨f.nanCode, [], true, false⟩)) ∧
  ∀ (f : Fmt) (sat : Bool) (r : Option Nat) (neg : Bool) (n d : Nat), f.isFloat = true → (roundTo f r (.fin neg n d)).2 = true →
    let y := store f sat r (.fin neg n d)
    y.ovf = true ∧ y.nan = false ∧ Flag.overflow ∈ y.flags ∧
    y.code = (if f.hasInf then f.infCode neg else if f = .e4m3 ∧ sat = false then 0x7F else f.withSign f.maxCode neg) ∧
    (Flag.sat ∈ y.flags ↔ f.hasInf = false ∧ ¬(f = .e4m3 ∧ sat = false))

/-- R97-R99, R107: the amax of a block is the largest finite magnitude, and a NaN marks it; an E8M0 code is the least exponent that holds the
amax, clamped; an E4M3 code is the least positive one that holds it, 0x7E where none does; a block of amax 0 has scale 1. -/
def ScaleRule : Prop :=
  (∀ l : List XVal, (∀ y ∈ l, 0 < y.den) →
    let b := l.foldl BlockAcc.add .empty
    (b.nan = true ↔ .nan ∈ l) ∧ (∀ y ∈ l, y.isFin = true → b.amax.lt y.abs = false) ∧
    (b.amax = .zero false ∨ ∃ y ∈ l, y.isFin = true ∧ b.amax = y.abs)) ∧
  ∀ f : Fmt, f = .e4m3 ∨ f = .e5m2 ∨ f = .e3m2 ∨ f = .e2m3 ∨ f = .e2m1 →
    e8m0Scale f (.zero false) = (0x7F, .scaled false 1 0) ∧ e4m3Scale f (.zero false) = (0x38, .scaled false 1 0) ∧
    ∀ n d : Nat, 0 < n → 0 < d →
      let a := XVal.fin false n d
      let k := leastExp a f.max
      let c := (e4m3Scale f a).1
      ((f.max.scale2 k).lt a = false ∧ (f.max.scale2 (k - 1)).lt a = true) ∧
      e8m0Scale f a = ((max (-127) (min 127 k) + 127).toNat, .scaled false 1 (max (-127) (min 127 k))) ∧
      (1 ≤ c ∧ c ≤ 0x7E ∧ (∀ j, 1 ≤ j → j < c → (f.max.mul (Fmt.e4m3.value j)).lt a = true) ∧
        (c < 0x7E → (f.max.mul (Fmt.e4m3.value c)).lt a = false)) ∧
      (e4m3Scale f a).2 = Fmt.e4m3.value c

/-- R123-R126, Tables 7-3 and 7-4: the exact results and the special operands of the core operations; every other result meets its bound of
Table 7-3, for source 15 against e^a, or is the FP32 value nearest to the exact one (R9; that the implementation's tables decide within the
bound is log 39). -/
def CoreRule : Prop :=
  (∀ (g : Nat) (n : Int), -126 ≤ n → n ≤ 127 → ∀ a : Option XVal, a = none →
    exp2Fin (.ofInt n 1 false) a g = BitVec.ofNat 32 ((n + 127).toNat * 2 ^ 23)) ∧
  (∀ (g : Nat) (k : Int), -126 ≤ k → k ≤ 127 →
    log2Op (BitVec.ofNat 32 ((k + 127).toNat * 2 ^ 23)) g = (round32 (.ofInt k 1 false), [])) ∧
  (∀ (g : Nat) (a b : Word),
    let x := f32Val a
    (x = .inf false → (f32Val b).isFin = true → (f32Val b).isZero = true → exp2Op a b false g = (f32NaN, [.invalid])) ∧
    (x.isNan = true ∨ (f32Val b).isNan = true → exp2Op a b false g = (f32NaN, [])) ∧
    (x = .inf false → exp2Op a b true g = (f32Inf false, [])) ∧ (x = .inf true → exp2Op a b true g = (0, [])) ∧
    (x.isNan = true → log2Op a g = (f32NaN, []) ∧ rcpsOp a g = (f32NaN, []) ∧ rsqsOp a g = (f32NaN, [])) ∧
    (x.isZero = true → log2Op a g = (f32Inf true, [.divzero]) ∧ rcpsOp a g = (f32Inf x.neg?, [.divzero]) ∧
      rsqsOp a g = (f32Inf x.neg?, [.divzero])) ∧
    (x.lt (.zero false) = true → log2Op a g = (f32NaN, [.invalid]) ∧ rsqsOp a g = (f32NaN, [.invalid])) ∧
    (x = .inf false → log2Op a g = (f32Inf false, []) ∧ rsqsOp a g = (0, [])) ∧
    (∀ neg, x = .inf neg → rcpsOp a g = (f32Zero neg, []))) ∧
  ∀ (g : Nat) (a b : Word),
    let x := f32Val a
    let met (f tol : XVal) (r : Word) : Prop := fits f tol r = true ∨ r = round32 f
    (∀ z, x.mul (f32Val b) = z → z.isFin = true → x.isFin = true → (f32Val b).isFin = true →
      roundEvenInt (z.num * 2 ^ 42) z.den < 128 * 2 ^ 42 → -127 * 2 ^ 42 ≤ roundEvenInt (z.num * 2 ^ 42) z.den →
      met (refExp2 z) (coreTol g (refExp2 z)) (exp2Op a b false g).1 ∧ (exp2Op a b false g).2 = []) ∧
    (x.isFin = true →
      let z := x.mul (XVal.ofInt 0x5C551D94AE0BF85E (2 ^ 62) false)
      let f := fxVal (fxExp (fxOf x))
      (128 * 2 ^ 42 ≤ roundEvenInt (z.num * 2 ^ 42) z.den → exp2Op a b true g = (f32Inf false, [])) ∧
      (roundEvenInt (z.num * 2 ^ 42) z.den < -127 * 2 ^ 42 → exp2Op a b true g = (0, [])) ∧
      (roundEvenInt (z.num * 2 ^ 42) z.den < 128 * 2 ^ 42 → -127 * 2 ^ 42 ≤ roundEvenInt (z.num * 2 ^ 42) z.den →
        met f (coreTol g f) (exp2Op a b true g).1 ∧ (exp2Op a b true g).2 = [])) ∧
    (x.isFin = true → (XVal.zero false).lt x = true →
      met (refLog2 x) (coreTol g (refLog2 x)) (log2Op a g).1 ∧ (log2Op a g).2 = [] ∧
      met (refRsqrt x) (seedTol g (refRsqrt x)) (rsqsOp a g).1 ∧ (rsqsOp a g).2 = []) ∧
    (x.isFin = true → x.isZero = false → met (refRcp x) (seedTol g (refRcp x)) (rcpsOp a g).1 ∧ (rcpsOp a g).2 = [])

/-- R54, R55, R66, R129-R133: a user image runs the instructions its grade executes in order, and answers v6, v7 and their flags. The exact
built-in blends and those of one core operation have their function (their words are the model's own, log 16). Any other built-in blend on
a NaN answers the one NaN without a flag, and elsewhere its special results or a result that meets its bound of Table 7-6 or is the FP32
value nearest to the exact one (log 39); the image that page 5 shows is the one executed where it keeps these rules (logs 16 and 17). SOFTCAP
is even in the sign of K. -/
def BlendRule : Prop :=
  (∀ (img : List Word) (g : Nat) (k v0 v1 v2 : Word),
    let h := img.headD 0
    let nin := (h.extractLsb' 5 2).toNat
    let l : Lane := (((img.drop 5).take (min 24 (h.extractLsb' 0 5).toNat)).filter fun w =>
        decide ((w.extractLsb' 6 2).toNat ≤ max 1 g)).foldl (laneStep ⟨(img.drop 1).take 4, k, g⟩)
      ⟨Vector.ofFn fun i => if i.val = 0 then v0 else if i.val = 1 ∧ 2 ≤ nin then v1 else if i.val = 2 ∧ 3 ≤ nin then v2 else 0, []⟩
    runImage img g k v0 v1 v2 = (vAt l.v 6, vAt l.v 7, l.flags)) ∧
  (∀ (g : Nat) (k a b c : Word),
    let run := fun slot => runBuiltin slot g k a b c
    let x := f32Canon a
    let ln2e := exp2Op x (0x3FB8AA3B#32) true g
    run 0 = (x, []) ∧ run 31 = (x, []) ∧ run 1 = laneMul k x ∧ run 2 = (if f32IsNan a then f32NaN else x ^^^ 0x80000000#32, []) ∧
    run 3 = laneAdd x (f32Canon b) ∧ run 4 = laneMul x (f32Canon b) ∧ run 5 = laneFma x (f32Canon b) (f32Canon c) ∧
    run 6 = laneFma k x (f32Canon b) ∧
    (f32IsNan a = false → run 7 = (if (f32Val a).lt (.zero false) ∨ (f32Val a).isZero then 0 else x, [])) ∧
    (f32IsNan a = false → run 8 = laneMul (run 7).1 (run 7).1) ∧
    run 9 = ln2e ∧ run 30 = ln2e ∧ run 10 = exp2Op x f32One false g ∧ run 12 = log2Op x g ∧
    run 29 = (if f32IsNan a then f32NaN else x &&& 0x7FFFFFFF#32, []) ∧ (run 28).1 = (laneMul x x).1 ∧ (run 28).2 = []) ∧
  (∀ (g : Nat) (k a b c : Word), runBuiltin 26 g (k ^^^ 0x80000000#32) a b c = runBuiltin 26 g k a b c) ∧
  ∀ (slot g : Nat) (k a b c : Word) (t : Cellar) (bank : Bool), slot < 32 →
    let r := runBuiltin slot g k a b c
    let x := f32Val (f32Canon a)
    let y := f32Val (f32Canon b)
    let run (k : Word) := runImage ((List.range 32).map (tableWord t 0 bank ∘ (32 * slot + ·))) g k a b c
    let image := run k
    let met (f tol : XVal) : Prop := r.2 = [] ∧ (fits f tol r.1 = true ∨ r.1 = round32 f) ∧
      (image.2.2 = [] → fits f tol image.1 = true → (slot = 26 → run (k ^^^ 0x80000000#32) = image) → r = (image.1, image.2.2))
    let open' := slot = 11 ∨ (13 ≤ slot ∧ slot ≤ 27)
    (¬open' → r = (image.1, image.2.2)) ∧
    (open' → slot ≠ 24 → slot ≠ 25 → slot ≠ 26 →
      let f := refBuiltin slot (f32Val k) x y
      (f32IsNan a = true → r = (f32NaN, [])) ∧
      (f32IsNan a = false → ∀ z, specialOne slot x = some z → r = z) ∧
      (f32IsNan a = false → specialOne slot x = none → met f (builtinTol slot g (f32Val k) x y f))) ∧
    (slot = 24 → (∀ z, specialDiv x y = some z → r = z) ∧
      (specialDiv x y = none → met (x.mul (refRcp y)) (builtinTol 24 g (f32Val k) x y (x.mul (refRcp y))))) ∧
    (slot = 25 →
      ((XVal.zero false).lt x = true → x.isFin = true → x.eqv (.fin false 1 1) = false → y.isFin = true → y.isZero = false →
        met (refPow x y) (builtinTol 25 g (f32Val k) x y (refPow x y))) ∧
      (y.isZero = true → r.1 = f32One) ∧ (x.eqv (.fin false 1 1) = true → y.isFin = true → r = (f32One, []))) ∧
    (slot = 26 → (∀ z, specialSoftcap (f32Val k) x = some z → r = z) ∧
      (specialSoftcap (f32Val k) x = none → met (refSoftcap (f32Val k).abs x)
        (builtinTol 26 g (f32Val k).abs x y (refSoftcap (f32Val k).abs x))))

/-- R76, R77, R101: an unscaled conversion writes, at its element's place, the stored code of the element it read. -/
def WriteRule : Prop :=
  ∀ (s : State) (c : Ctx) (a : RowAcc) (i : Idx),
    let r := c.it
    let d := rDesc r .out0
    rCls r = .conv → rBlend r = 0 → rMaskMode r = 0 → rHas r .out0 = true → rHas r .out1 = false → dScale (rDesc r .in0) = 0 →
      dScale d = 0 → c.storing = true → c.wrote = [] →
    let x := decodeElem (dFmt (rDesc r .in0)) (fetch s c .in0 i)
    let y := store (dFmt d) (rSat r) (storeRnd c (dFmt d) i 0) (f32Val x.v)
    (writeStep s c a i).2 = bitWrites (dPos d i) (dFmt d).bits y.code ∧
    (writeStep s c a i).1.kept = a.kept + 1 ∧
    ∀ f : Flag, (writeStep s c a i).1.tally.count f = a.tally.count f + ((x.flags ++ y.flags).filter (· == f)).length

/-! ### What a row computes -/

/-- R81, R138-R141, R144: a cask of finite terms reads out their exact sum, products below 2^-126 counting as zeros; a tracker reads the
largest value it took, and a NaN once it took one. -/
def SumRule : Prop :=
  let sum (l : List XVal) : XVal := l.foldl XVal.add (.zero false)
  (∀ l : List Word, (∀ x ∈ l, (f32Val x).isFin = true) →
    (l.foldl Cask.addValue Cask.clear).value.eqv (sum (l.map f32Val)) = true ∧ (l.foldl Cask.addValue Cask.clear).flags = []) ∧
  (∀ l : List (Word × Word), (∀ x ∈ l, (f32Val x.1).isFin = true ∧ (f32Val x.2).isFin = true) →
    let k := l.foldl (fun k x => k.addProduct x.1 x.2) Cask.clear
    let term (x : Word × Word) : XVal :=
      let p := (f32Val x.1).mul (f32Val x.2)
      if p.abs.lt minNormal then .zero false else p
    k.value.eqv (sum (l.map term)) = true ∧ k.flags = []) ∧
  (∀ l : List Word, (∃ x ∈ l, (f32Val x).isNan = true) → (l.foldl Cask.addValue Cask.clear).value = .nan) ∧
  ∀ l : List XVal, (∀ y ∈ l, 0 < y.den) →
    let m := l.foldl trackMax none
    (l = [] → m = none) ∧ (.nan ∈ l → m = some .nan) ∧
    (l ≠ [] → .nan ∉ l → ∃ y ∈ l, m = some y ∧ ∀ z ∈ l, y.below z = false)

/-- R67, R76, R101, R145-R147, R150, R154, R160, R170: what pass 1 takes from one element: nothing but the mask's own flags of a dropped one;
of a kept one its value to the row's casks, trackers and counts, with the flags of its reads and of its blend. -/
def ScanRule : Prop :=
  ∀ (s : State) (c : Ctx) (a : RowAcc) (i : Idx),
    let r := c.it
    let b := { a with tally := a.tally.raiseAll (maskFlags s c i) }
    let x := readInput s c .in0 i
    let y := readInput s c .in1 i
    let scan := scanElem s c a i
    let narrow (p : Nat) (v : XVal) : Word := statePoint r i p v
    (rCls r = .xent → a.label < 0 → scan = a) ∧
    ((rCls r = .xent → 0 ≤ a.label) → rCls r ≠ .perm →
      (kept s c i = false → scan = b) ∧
      (kept s c i = true →
        (rCls r = .stat →
          let f := runBlend s c (rGrade r) x.v 0 0
          let v := f32Canon f.1
          scan = { b with kept := a.kept + 1, k0 := a.k0.addValue v, outMax := trackMax a.outMax (f32Val v),
                          rowMax := sumTrack c a.rowMax (f32Val v), tally := b.tally.raiseAll (x.flags ++ f.2.2) }) ∧
        (rCls r = .dot → scan.kept = a.kept + 1 ∧ scan.k0 = a.k0.addProduct x.v y.v ∧ scan.tally = b.tally.raiseAll (x.flags ++ y.flags)) ∧
        (rCls r = .amax → scan.kept = a.kept + 1 ∧ scan.outMax = trackMax a.outMax (f32Val x.v).abs ∧
          scan.tally = b.tally.raiseAll x.flags) ∧
        (rCls r = .normFwd → scan.kept = a.kept + 1 ∧ scan.k0 = a.k0.addValue x.v ∧ scan.k1 = a.k1.addProduct x.v x.v ∧
          scan.tally = b.tally.raiseAll x.flags) ∧
        (rCls r = .normBwd →
          let gam := readInput s c .in2 i
          let p := (f32Val y.v).mul (f32Val gam.v)
          let g := narrow 5 p
          scan.kept = a.kept + 1 ∧ scan.k0 = a.k0.addValue x.v ∧ scan.k1 = a.k1.addProduct x.v x.v ∧ scan.k2 = a.k2.addValue g ∧
          scan.k3 = a.k3.addProduct g x.v ∧
          scan.tally = b.tally.raiseAll (x.flags ++ y.flags ++ gam.flags ++
            (if p.isNan = true ∧ (f32Val y.v).isNan = false ∧ (f32Val gam.v).isNan = false then [.invalid] else []))) ∧
        (rCls r = .smax ∨ rCls r = .lse ∨ rCls r = .xent →
          let u := narrow 0 ((f32Val x.v).mul (f32Val (rParam r)))
          let v := f32Val u
          let count (n : Nat) (p : Prop) [Decidable p] : Nat := if p then n + 1 else n
          scan.kept = a.kept + 1 ∧ scan.tally = b.tally.raiseAll x.flags ∧ scan.nNan = count a.nNan (v = .nan) ∧
          scan.nPinf = count a.nPinf (v = .inf false) ∧ scan.nNinf = count a.nNinf (v = .inf true) ∧
          scan.nFin = count a.nFin (v.isFin = true) ∧ scan.labelU = (if (i.i0 : Int) = a.label then some u else a.labelU) ∧
          (v.isFin = false → scan.k0 = a.k0 ∧ scan.mRun = a.mRun ∧ scan.needRack = a.needRack) ∧
          (v.isFin = true → let e := enterTerm a (termParts u (rGrade r))
            scan.k0 = e.k0 ∧ scan.mRun = e.mRun ∧ scan.lowN = e.lowN ∧ scan.needRack = e.needRack))))

/-- R161-R163: the running maximum of pass 1 is the ceiling of the largest Z; a row that needs no racking holds the exact sum of its terms
m24 2^(n - M - 23) with n - M >= -192, and racking forms that sum of any row against its known M. -/
def SmaxSumRule : Prop :=
  let part (m : Int) (t : TermParts) : Int := if -192 ≤ t.n - m then t.m24 * 2 ^ (257 + t.n - m).toNat else 0
  (∀ ts : List TermParts, (∀ t ∈ ts, t.n = t.z / 2 ^ 42) → ts ≠ [] →
    let a := ts.foldl enterTerm RowAcc.clear
    ∃ m : Int, a.mRun = some m ∧ (∃ t ∈ ts, 2 ^ 42 * (m - 1) < t.z) ∧ (∀ t ∈ ts, t.z ≤ 2 ^ 42 * m) ∧
      (a.needRack = false → a.k0.c = (ts.map (part m)).sum ∧ a.k0.sticky = false) ∧
      (a.needRack = true → ∃ t ∈ ts, t.n - m < -192)) ∧
  (∀ (s : State) (c : Ctx) (m : Int) (l : List Idx),
    let u (i : Idx) : Word := statePoint c.it i 0 ((f32Val (readInput s c .in0 i).v).mul (f32Val (rParam c.it)))
    (l.foldl (rackElem s c m) Cask.clear).c =
      ((l.filter fun i => kept s c i && (f32Val (u i)).isFin).map fun i => part m (termParts (u i) (rGrade c.it))).sum) ∧
  ∀ k : Cask, k.nan = false → k.zinf = false → k.pinf = false → k.ninf = false → k.sticky = false → 0 < k.c →
    k.value.eqv (.ofInt k.c (2 ^ 280) false) = true

/-- R145-R148, R150, R151, R155: the turnaround of STAT, DOT, AMAX and the normalisation classes: the sum read out exactly, the maximum (of an
empty row -inf, of AMAX +0), EMPTY_ROW of a row without a kept element, the INVALID of the read-out; mu, w and rstd, and the means a and b,
with one rounding each; a non-finite row has NaN constants. -/
def TurnRule : Prop :=
  ∀ (c : Ctx) (a : RowAcc) (i : Idx),
    let r := c.it
    let t := rowTurn c a i
    let n := rD0 r
    (rCls r = .stat ∨ rCls r = .dot →
      t.rowY0 = a.k0.value ∧ t.sum1 = round32 a.k0.value ∧ t.icTerm = some (round32 a.k0.value) ∧
      (rCls r = .stat → t.rowY1 = a.outMax.getD (.inf true)) ∧
      t.tally.count .emptyRow = a.tally.count .emptyRow + (if a.kept = 0 then 1 else 0) ∧
      t.tally.count .invalid = a.tally.count .invalid + (if a.k0.zinf = true ∨ (a.k0.pinf = true ∧ a.k0.ninf = true) then 1 else 0)) ∧
    (rCls r = .amax → t.rowY0 = a.outMax.getD (.zero false) ∧
      t.tally.count .emptyRow = a.tally.count .emptyRow + (if a.kept = 0 then 1 else 0)) ∧
    (rCls r = .normFwd ∨ rCls r = .normBwd →
      let s1 := a.k0.value
      let s2 := a.k1.value
      let s3 := a.k2.value
      let s4 := a.k3.value
      let bwd : Prop := rCls r = .normBwd
      let finite : Prop := s1.isFin = true ∧ s2.isFin = true ∧ (bwd → s3.isFin = true ∧ s4.isFin = true)
      t.rowY1 = f32Val t.rstd ∧
      (finite →
        let var := if rRms r then s2.divBy n 1 else (((XVal.ofInt n 1 false).mul s2).add (s1.mul s1).negate).divBy (n * n) 1
        t.mu = (if rRms r then 0 else statePoint r i 0 (s1.divBy n 1)) ∧
        t.w = statePoint r i 1 ((if var.neg? then .zero false else var).add (f32Val (rParam r)).abs) ∧
        t.rstd = statePoint r i 2 (f32Val (runBuiltin 22 (rGrade r) 0 t.w 0 0).1) ∧
        (bwd → t.ca = (if rRms r then 0 else statePoint r i 3 (s3.divBy n 1)) ∧
          t.cb = statePoint r i 4
            (((f32Val t.rstd).mul (if rRms r then s4 else s4.add ((f32Val t.mu).mul s3).negate)).divBy n 1))) ∧
      (¬finite → t.mu = f32NaN ∧ t.w = f32NaN ∧ t.rstd = f32NaN ∧
        (a.k0.nan = false → a.k1.nan = false → (bwd → a.k2.nan = false ∧ a.k3.nan = false) →
          a.tally.count .invalid < t.tally.count .invalid)))

/-- R164, R165, R167, R168, Tables 10-1 and 10-2: the turnaround of SMAX, LSE and XENT: the case of the row, sigma, 1/sigma and the
log-sum-exp M ln 2 + l, the value presented, and the flags. -/
def SmaxTurnRule : Prop :=
  ∀ (c : Ctx) (a : RowAcc) (i : Idx),
    let r := c.it
    let t := rowTurn c a i
    let table : Nat :=
      if a.kept = 0 then 1 else if a.nNan ≠ 0 then 2 else if a.nPinf ≠ 0 then (if rStrict r then 4 else 3)
      else if a.nFin = 0 then (if rStrict r then 6 else 5) else 7
    let ln (x : Word) : Word := (runBuiltin 11 (rGrade r) 0 x 0 0).1
    let lam (l : Word) : XVal := (XVal.ofInt (a.mRun.getD 0 * 0xB17217F7D1CF79AC) (2 ^ 64) false).add (f32Val l)
    let consts : Prop := t.sigma = statePoint r i 1 a.k0.value ∧
      (hasPass2 r = true → t.recip = statePoint r i 2 (f32Val (runBuiltin 21 (rGrade r) 0 t.sigma 0 0).1))
    let l := statePoint r i 3 (f32Val (ln t.sigma))
    let flags (fl : List Flag) : Prop := t.tally = a.tally.raiseAll fl
    (rCls r = .smax ∨ rCls r = .lse → 0 ≤ a.label →
      t.rowCase = table ∧ (table = 7 → consts) ∧
      t.rowY0 = (match table with | 2 => .nan | 3 => .inf false | 4 => .inf false | 7 => lam l | _ => .inf true) ∧ t.rowY1 = t.rowY0 ∧
      flags (match table with | 1 => [.emptyRow] | 4 => [.invalid] | 6 => [.invalid] | _ => [])) ∧
    (rCls r = .xent →
      (a.label < 0 → t.rowCase = 0 ∧ t.rowY0 = .zero false ∧ flags [] ∧ t.icTerm = none) ∧
      (0 ≤ a.label →
        (table = 1 → t.rowCase = 1 ∧ t.rowY0 = .zero false ∧ flags [.emptyRow]) ∧
        (table = 2 → t.rowCase = 2 ∧ t.rowY0 = .nan ∧ flags []) ∧
        (2 < table → (rD0 r : Int) ≤ a.label → t.rowCase = 8 ∧ t.rowY0 = .nan ∧ flags [.invalid]) ∧
        (2 < table → a.label < (rD0 r : Int) → t.rowCase = table ∧ (table = 7 → consts) ∧
          flags (if table = 4 ∨ table = 6 then [.invalid] else []) ∧
          (a.labelU = none → t.rowY0 = .inf false) ∧
          ∀ u, a.labelU = some u →
            t.rowY0 =
              match table with
              | 3 => if f32Val u = .inf false then f32Val (ln (round32 (.ofInt a.nPinf 1 false))) else .inf false
              | 4 => if f32Val u = .inf false then .nan else .inf false
              | 5 => .inf false
              | 6 => .nan
              | _ =>
                let x := (lam l).add (f32Val u).negate
                if x.neg? || x.isZero then .zero false else x)))

/-- R54, R70, R72, R152, R156, R166, R168, Tables 3-9, 10-1 and 10-2: the values that the writing pass presents: the blend of ELEM and CONV,
times in1 in GATE, the normalised element, the probability (its gradient in XENT), and what PERM gathers; a dropped position has none. -/
def PresentRule : Prop :=
  ∀ (s : State) (c : Ctx) (a : RowAcc) (i : Idx),
    let r := c.it
    let x := readInput s c .in0 i
    let put := writeElem s c a i
    let none' : List Put := ((if rHas r .out0 then [false] else []) ++ (if rHas r .out1 then [true] else [])).filterMap fun o =>
      if rowOut (rCls r) o then none else some ⟨o, i, none⟩
    let lane (p : Nat) (v : XVal) : XVal := f32Val (statePoint r i p v)
    (rCls r = .elem ∨ rCls r = .gate ∨ rCls r = .conv ∨ rCls r = .smax ∨ rCls r = .xent → kept s c i = false → put.2 = none') ∧
    (rCls r = .gate → kept s c i = true → rHas r .in1 = true → rHas r .out0 = true → rHas r .out1 = false →
      put.2 = [⟨false, i, some (f32Val (round32
        ((f32Val (f32Canon (runBlend s c (rGrade r) x.v 0 0).1)).mul (f32Val (readInput s c .in1 i).v))))⟩]) ∧
    (rCls r = .conv → kept s c i = true → rHas r .out0 = true → rHas r .out1 = false →
      put.2 = [⟨false, i, some (f32Val (f32Canon (runBlend s c (rGrade r) x.v 0 0).1))⟩]) ∧
    (rCls r = .elem → kept s c i = true → rHas r .in1 = true → rHas r .in2 = true → rMaskMode r = 0 → rHas r .out0 = true →
      rHas r .out1 = true →
      let y := runBlend s c (rGrade r) x.v (readInput s c .in1 i).v (readInput s c .in2 i).v
      put.2 = [⟨false, i, some (f32Val (f32Canon y.1))⟩, ⟨true, i, some (f32Val (f32Canon y.2.1))⟩]) ∧
    (rCls r = .normFwd →
      let gam := f32Val (readInput s c .in1 i).v
      let bet := f32Val (readInput s c .in2 i).v
      let hat := if rRms r then lane 4 ((f32Val x.v).mul (f32Val a.rstd))
        else lane 4 ((lane 3 ((f32Val x.v).add (f32Val a.mu).negate)).mul (f32Val a.rstd))
      put.2 = [⟨false, i, some (if a.rowCase = 9 then .nan
        else if rRms r then f32Val (round32 (hat.mul gam)) else f32Val (round32 ((hat.mul gam).add bet)))⟩]) ∧
    (rCls r = .normBwd →
      let g := lane 5 ((f32Val (readInput s c .in1 i).v).mul (f32Val (readInput s c .in2 i).v))
      let d := if rRms r then f32Val x.v else lane 6 ((f32Val x.v).add (f32Val a.mu).negate)
      let hat := lane 7 (d.mul (f32Val a.rstd))
      let t := if rRms r then g else lane 8 (g.add (f32Val a.ca).negate)
      let u := lane 9 ((hat.negate.mul (f32Val a.cb)).add t)
      put.2 = [⟨false, i, some (if a.rowCase = 9 then .nan else f32Val (round32 (u.mul (f32Val a.rstd))))⟩]) ∧
    (rCls r = .smax ∨ rCls r = .xent → kept s c i = true →
      let u := lane 0 ((f32Val x.v).mul (f32Val (rParam r)))
      let t := termParts (statePoint r i 0 ((f32Val x.v).mul (f32Val (rParam r)))) (rGrade r)
      let p : XVal :=
        match a.rowCase with
        | 3 => if u = .inf false then .fin false 1 a.nPinf else .zero false
        | 7 => if u.isFin then (XVal.ofScaled t.m24 (max (t.n - a.mRun.getD 0 - 23) (-4096))).mul (f32Val a.recip) else .zero false
        | _ => .zero false
      let y : XVal :=
        if a.rowCase = 0 then .zero false
        else if a.rowCase = 2 ∨ a.rowCase = 4 ∨ a.rowCase = 6 ∨ a.rowCase = 8 then .nan
        else if rCls r = .xent ∧ (i.i0 : Int) = a.label then p.add (.fin true 1 1) else p
      put.2 = [⟨decide (rCls r = .xent), i, some y⟩]) ∧
    (rCls r = .perm →
      let len := rowLength s c i
      let index := fetch s c .in1 i
      let n := signedOf 32 index.1
      let src := readInput s c .in0 { i with i0 := n.toNat }
      let b := { a with tally := a.tally.raiseAll (maskFlags s c i) }
      (len ≤ i.i0 → put = (b, none')) ∧
      (i.i0 < len → index.2 = false → 0 ≤ n → n < len → put.2 = [⟨false, i, some (f32Val src.v)⟩] ∧
        put.1 = { b with kept := a.kept + 1, tally := b.tally.raiseAll src.flags, rowMax := sumTrack c a.rowMax (f32Val src.v) }) ∧
      (i.i0 < len → index.2 = false → n < 0 ∨ (len : Int) ≤ n → put = ({ b with tally := b.tally.raiseAll [.permRange] }, none')) ∧
      (i.i0 < len → index.2 = true → put = ({ b with tally := b.tally.raiseAll [.invalid, .permRange] }, none')))

/-- R107: e is the exponent for H > 0, for a format whose largest value is m and a margin: k + margin, clamped, with k the least
exponent with H <= m 2^k. -/
def ExponentFor (h m : XVal) (margin : Nat) (e : Int) : Prop :=
  ∃ k : Int, (m.scale2 k).lt h = false ∧ (m.scale2 (k - 1)).lt h = true ∧ e = max (-126) (min 127 (k + margin))

/-- The itinerary has a VINTAGE output. -/
def VintageOutput (c : Ctx) : Prop := ∃ o : Opd, o.isOut = true ∧ rHas c.it o = true ∧ dScale (rDesc c.it o) = 1

/-- R105-R108: the capture is the largest finite magnitude that entered, and every other value counts as non-finite; AMAX captures its kept
input, any other class what it presents to a VINTAGE output, before the scale; the first evaluation stores nothing; and when it ends under
COLD_JIT its capture chooses the exponent, 0 for none or for 0. -/
def CaptureRule : Prop :=
  (∀ l : List XVal, (∀ y ∈ l, 0 < y.den) →
    let m := l.foldl captureMax none
    ((∀ y ∈ l, y.isFin = false) → m = none) ∧
    ((∃ y ∈ l, y.isFin = true) → ∃ y ∈ l, y.isFin = true ∧ m = some y.abs ∧ ∀ z ∈ l, z.isFin = true → y.abs.lt z.abs = false)) ∧
  (∀ (s : State) (c : Ctx) (a : RowAcc) (i : Idx), rCls c.it = .amax → kept s c i = true →
    let v := f32Val (readInput s c .in0 i).v
    let b := scanElem s c a i
    (rVslotEn c.it = true → dScale (rDesc c.it .in0) ≠ 1 → b.cap = captureMax a.cap v ∧ b.nonfin = a.nonfin + (if v.isFin then 0 else 1)) ∧
    (rVslotEn c.it = false ∨ dScale (rDesc c.it .in0) = 1 → b.cap = a.cap ∧ b.nonfin = a.nonfin)) ∧
  (∀ (s : State) (c : Ctx) (a : RowAcc) (p : Put),
    let vintage : Prop := dScale (rDesc c.it (if p.out1 then .out1 else .out0)) = 1 ∧ rCls c.it ≠ .amax
    let b := (emitPuts s c a [p]).1
    (c.storing = false → (emitPuts s c a [p]).2 = [] ∧ b.tally = a.tally ∧ b.taste = a.taste ∧ b.nonfin = a.nonfin ∧
      ∀ y, p.y = some y → (vintage → b.cap = captureMax a.cap y) ∧ (¬vintage → b.cap = a.cap)) ∧
    (c.storing = true → ∀ y, p.y = some y →
      (vintage → b.cap = captureMax a.cap y ∧ b.nonfin = a.nonfin + (if y.isFin then 0 else 1)) ∧
      (¬vintage → b.cap = a.cap ∧ b.nonfin = a.nonfin)) ∧
    (p.y = none → b.cap = a.cap ∧ b.nonfin = a.nonfin)) ∧
  ∀ c : Ctx, c.storing = false → c.rowsDone = workUnits c.it →
    let jit : Prop := c.slotEmpty = true ∧ c.policy.extractLsb' 12 2 = 0 ∧ VintageOutput c
    let t := nextSweep c
    t.storing = true ∧ t.nextRow = 0 ∧ t.rowsDone = 0 ∧ (¬jit → t.vOut = c.vOut) ∧
    (jit → (c.preCap = none ∨ (∃ y, c.preCap = some y ∧ y.isZero = true) → t.vOut = 0) ∧
      ∀ n d, 0 < n → 0 < d → c.preCap = some (.fin false n d) → 2 ≤ (c.policy.extractLsb' 8 4).toNat → (c.policy.extractLsb' 8 4).toNat ≤ 7 →
        ExponentFor (.fin false n d) (Fmt.ofCode (c.policy.extractLsb' 8 4)).max (c.policy.extractLsb' 4 4).toNat t.vOut.toInt) ∧
    { t with storing := c.storing, nextRow := c.nextRow, rowsDone := c.rowsDone, vOut := c.vOut } = c

/-- R115: the tile of an element is sampled; every operation mod 2^32. -/
def TileSampled (c : Ctx) (i : Idx) : Prop :=
  let r := c.it
  let m32 (x : Nat) : Nat := x % 2 ^ 32
  let t := ((i.i3 * rD2 r + i.i2) * rD1 r + i.i1) * ((rD0 r + 63) / 64) + i.i0 / 64
  let h := m32 (m32 t * 0x9E3779B1 + t / 2 ^ 32 * 0x27D4EB2F)
  let h := m32 (h + (rStep r).toNat * 0x85EBCA6B + (rTag r).toNat * 0xC2B2AE35)
  let h := m32 (Nat.xor h (h / 2 ^ 16) * 0x7FEB352D)
  Nat.xor h (h / 2 ^ 15) % 2 ^ min 16 (c.tsCtrl.extractLsb' 1 5).toNat = 0

/-- R114-R117: a stored value of a sampled tile is compared with its y: the term of the scaled difference, what is zeroed and what is clipped;
the tiles counted; and under fn_ref the distance between the element's result and that of grade 3. A NaN stored gives a free term, log 26. -/
def TasteRule : Prop :=
  (∀ c : Ctx, tasted c = true ↔ rTaste c.it = true ∧ c.tsCtrl.getLsbD 0 = true ∧
    (rCls c.it = .elem ∨ rCls c.it = .gate ∨ rCls c.it = .conv ∨ rCls c.it = .normFwd ∨ rCls c.it = .smax)) ∧
  (∀ (s : State) (c : Ctx) (a : RowAcc) (o : Bool) (i : Idx) (y : XVal), c.storing = true →
    let r := c.it
    let d := rDesc r (if o then .out1 else .out0)
    let f := dFmt d
    let b := (emitPuts s c a [⟨o, i, some y⟩]).1
    let compared : Prop := tasted c = true ∧ TileSampled c i ∧ rowOut (rCls r) o = false ∧ f ≠ .fp32 ∧ y.isFin = true
    (¬compared → b.taste = a.taste) ∧
    (compared → dScale d = 0 ∨ dScale d = 1 →
      let scale : XVal := if dScale d = 1 then .scaled false 1 c.vOut.toInt else .scaled false 1 0
      let st := store f (rSat r) (storeRnd c f i (if o then 1 else 0)) (if dScale d = 1 then y.scale2 (-c.vOut.toInt) else y)
      let q := (f.value st.code).mul scale
      let diff := (q.add y.negate).abs
      ∃ term : Nat,
        (y.isZero = true → term = 0) ∧
        (y.isZero = false → f.isNanCode st.code = false →
          (q.isInf = true → term = 0xFFFFFFFF) ∧
          (q.isInf = false → term = min (diff.num.natAbs * y.den * 2 ^ 32 / (diff.den * y.num.natAbs)) 0xFFFFFFFF)) ∧
        b.taste = { a.taste with
          nCmp := a.taste.nCmp + 1,
          nZeroed := a.taste.nZeroed + (if (f.value st.code).isZero = true ∧ y.isZero = false then 1 else 0),
          nClipped := a.taste.nClipped + (if st.ovf then 1 else 0),
          convMax := max a.taste.convMax term, convSum := a.taste.convSum + term })) ∧
  (∀ (t : Taste) (x y : Word),
    let ord (w : Word) : Int := if w.getLsbD 31 then -((w.toNat % 2 ^ 31 : Nat) : Int) else w.toNat
    let nan (w : Word) : Prop := (f32Val w).isNan = true
    let d := min (ord x - ord y).natAbs 0xFFFFFFFF
    (nan x → nan y → tasteFn t x y = t) ∧
    ((nan x ∧ ¬nan y) ∨ (¬nan x ∧ nan y) → tasteFn t x y = { t with fnNan := t.fnNan + 1 }) ∧
    (¬nan x → ¬nan y → tasteFn t x y = { t with fnMax := max t.fnMax d, fnSum := t.fnSum + d })) ∧
  ∀ (s : State) (c : Ctx) (i : Idx) (t : Taste),
    let on : Prop := tasted c = true ∧ TileSampled c i
    let u := { t with tiles := t.tiles + (if i.i0 % 64 = 0 then 1 else 0) }
    let fn : Prop := c.tsCtrl.getLsbD 8 = true ∧ (rCls c.it = .elem ∨ rCls c.it = .gate ∨ rCls c.it = .conv) ∧ kept s c i = true
    let y := elemValue s c (rGrade c.it) i
    let ref := elemValue s c 3 i
    (¬on → tasteElem s c i t = t) ∧ (on → ¬fn → tasteElem s c i t = u) ∧
    (on → fn → tasteElem s c i t =
      if rHas c.it .out1 then tasteFn (tasteFn u y.y0 ref.y0) y.y1 ref.y1 else tasteFn u y.y0 ref.y0)

/-! ### The hold of R50 -/

/-- An area of the itinerary (R35): the footprint or the scale area of a present operand, of an output where only what is written counts, or
the summary area. -/
def HasArea (r : Record) (written : Bool) (x : Area) : Prop :=
  sumArea r = some x ∨ ∃ o : Opd, (written = true → o.isOut = true) ∧ rHas r o = true ∧
    (x = footprint r (rDesc r o) ∨ x = scaleArea r (rDesc r o))

/-- R50, R104: the itinerary waits for one that has started and not completed: an area of it shares a byte with an area that one writes, or
both name the same vintage slot. -/
def WaitsFor (r : Record) (e : Entry) : Prop :=
  (∃ q x y a, e.held = some q ∧ HasArea r false x ∧ HasArea q true y ∧ (x.lo ≤ a ∧ a < x.hi) ∧ (y.lo ≤ a ∧ a < y.hi)) ∨
  (rVslotEn r = true ∧ e.pin = some (rVslot r))

/-! ### What a completion posts -/

/-- A context stays, and so does what its itinerary reads, whatever memory takes meanwhile (R6, R14, log 79). -/
def ReadsStay (s t : State) (b : Bool) : Prop :=
  (s.ctx b = none → t.ctx b = none) ∧
  ∀ c, s.ctx b = some c → ∃ d, t.ctx b = some d ∧ { d with before := c.before } = c ∧
    (MemInv s → ∀ a, memByte (readView t d) a = memByte (readView s c) a)

/-- R118: counts and sums add and saturate, maxima take the larger value (Table 6-6). -/
def TasteMerged (own old new : Taste) : Prop :=
  new.tiles = min (old.tiles + own.tiles) 0xFFFFFFFF ∧ new.nCmp = min (old.nCmp + own.nCmp) 0xFFFFFFFF ∧
  new.nZeroed = min (old.nZeroed + own.nZeroed) 0xFFFF ∧ new.nClipped = min (old.nClipped + own.nClipped) 0xFFFF ∧
  new.convMax = max old.convMax own.convMax ∧ new.convSum = min (old.convSum + own.convSum) (2 ^ 64 - 1) ∧
  new.fnMax = max old.fnMax own.fnMax ∧ new.fnNan = min (old.fnNan + own.fnNan) 0xFFFFFFFF ∧
  new.fnSum = min (old.fnSum + own.fnSum) (2 ^ 64 - 1)

/-- R106, step 2: code h of the capture a: rounded toward +inf onto the BF16 normal values, at most 0x7F7F; 0 for 0. -/
def HistoryCode (a : XVal) (h : Nat) : Prop :=
  (a.isZero = true → h = 0) ∧
  (a.isZero = false → 0x80 ≤ h ∧ h ≤ 0x7F7F ∧ ((Fmt.bf16.value h).lt a = true → h = 0x7F7F) ∧
    ∀ j, 0x80 ≤ j → j < h → (Fmt.bf16.value j).lt a = true)

/-- R107: v is the exponent chosen for a record: H is the largest of the newest min(depth, count) entries, and H = 0 gives 0. A BF16 code
below 0x80 is a zero (R78, log 67). -/
def Chosen (r : SlotRec) (v : BitVec 8) : Prop :=
  let policy := vAt r 1
  let n := min ((policy.extractLsb' 0 4).toNat + 1) ((vAt r 0).extractLsb' 0 5).toNat
  let newest := ((vAt r 0).extractLsb' 8 4).toNat
  let code (k : Nat) : Nat := (recHist r ((newest + 16 - k) % 16)).toNat
  ((∀ k, k < n → code k < 0x80) → v = 0) ∧
  ∀ k, k < n → 0x80 ≤ code k → (∀ j, j < n → code j ≤ code k) →
    ExponentFor (Fmt.bf16.value (code k)) (Fmt.ofCode (policy.extractLsb' 8 4)).max (policy.extractLsb' 4 4).toNat v.toInt

/-- R105, R106: the itinerary updates its slot: it has a VINTAGE output, or is an AMAX whose input is not under the slot. -/
def UpdatesSlot (c : Ctx) : Prop :=
  rVslotEn c.it = true ∧ (VintageOutput c ∨ (rCls c.it = .amax ∧ dScale (rDesc c.it .in0) ≠ 1))

/-- R106: what the update makes of the record r of the itinerary's slot. -/
def SlotUpdated (c : Ctx) (r q : SlotRec) : Prop :=
  let pushed : Prop := c.cap.isSome = true ∧ (vAt r 1).getLsbD 14 = false
  let at' := (recNewest r + 1) % 16
  vAt q 3 = satAdd (vAt r 3) c.nonfin ∧ vAt q 1 = vAt r 1 ∧ (∀ w : BitVec 4, 12 ≤ w.toNat → vAt q w = vAt r w) ∧
  (VintageOutput c → recVRead q = c.vOut) ∧ (¬VintageOutput c → recVRead q = recVRead r) ∧
  (¬pushed → vAt q 0 = vAt r 0 ∧ recVWrite q = recVWrite r ∧ ∀ i, i < 16 → recHist q i = recHist r i) ∧
  (pushed → recCount q = min (recCount r + 1) 16 ∧ recNewest q = at' ∧
    (∀ i, i < 16 → i ≠ at' → recHist q i = recHist r i) ∧
    (∀ n d, 0 < d → c.cap = some (.fin false n d) → HistoryCode (.fin false n d) (recHist q at').toNat) ∧
    (recordOk r = true → Chosen q (recVWrite q)))

/-- R201, Table 12-6: word i of an itinerary's record. -/
def SummaryIs (e : Entry) (c : Ctx) (w : Nat → Word) : Prop :=
  (w 0).toNat = e.index.toNat + e.cls.toNat * 2 ^ 16 + e.guest.toNat * 2 ^ 20 ∧
  (∀ f : Flag, f.bit < 9 → ((w 1).getLsbD f.bit = true ↔ c.tally.count f ≠ 0)) ∧ w 1 &&& 0xFFFFFE00#32 = 0 ∧
  (c.rowMax = none → w 2 = 0xFF800000#32) ∧ (∀ x, c.rowMax = some x → w 2 = round32 x) ∧ w 3 = round32 c.icask.value ∧
  (w 4).toNat = min c.tally.nan 0xFFFFFFFF ∧ (w 5).toNat = min c.tally.ovf 0xFFFFFFFF ∧
  (w 6).toNat = min c.emptyRows 0xFFFFFFFF ∧ (w 7).toNat = min (c.tally.count .permRange) 0xFFFFFFFF

/-- R202: the condition of UM_SM_CFG.cond_mask in the itinerary's context. -/
def SummaryWanted (c : Ctx) : Prop :=
  c.smCfg.extractLsb' 0 4 = 0 ∨ (c.smCfg.getLsbD 0 = true ∧ c.tally.nan ≠ 0) ∨ (c.smCfg.getLsbD 1 = true ∧ c.tally.ovf ≠ 0) ∨
  (c.smCfg.getLsbD 2 = true ∧ c.emptyRows ≠ 0) ∨ (c.smCfg.getLsbD 3 = true ∧ c.tally.count .permRange ≠ 0)

/-- R235: the n little-endian bytes of a number. -/
def leBytes (n v : Nat) : List Byte := (List.range n).map fun k => BitVec.ofNat 8 (v / 256 ^ k)

/-- R34, R235, Table 5-3: the linear indices of an output's positions, in order: every element, or for a (row) output the first of each row,
or of each column. -/
def outputPositions (r : Record) (out1 : Bool) : List Nat :=
  (List.range (rD0 r * rD1 r * rD2 r * rD3 r)).filter fun e =>
    !rowOut (rCls r) out1 || (if isCol r then decide (e / rD0 r % rD1 r = 0) else decide (e % rD0 r = 0))

/-- R235: an output's part of a segment: each position's stored code, 0 where none was stored, then its scale area. -/
def outputStream (t : State) (c : Ctx) (out1 : Bool) : List Byte :=
  let d := rDesc c.it (if out1 then .out1 else .out0)
  let size := if (dFmt d).bits ≤ 8 then 1 else if (dFmt d).bits = 16 then 2 else 4
  let code (e : Nat) : Nat := ((c.noted.find? fun n => n.out == out1 && n.e == e).map (·.code)).getD 0
  let scale := scaleArea c.it d
  if dPresent d = false then []
  else (outputPositions c.it out1).flatMap (fun e => leBytes size (code e)) ++
    (if dScale d = 2 ∨ dScale d = 3 then (List.range (scale.hi - scale.lo)).map fun k => memByte t.mem (scale.lo + k) else [])

/-- R235: the segment of a completion: its header, its body and zeros up to the next multiple of 4,096. -/
def segmentOf (e : Entry) (flags : BitVec 12) (body : List Byte) : List Byte :=
  let l := leBytes 8 (e.index.toNat + e.cls.toNat * 2 ^ 16 + e.status.toNat * 2 ^ 20 + e.reason.toNat * 2 ^ 24 + flags.toNat * 2 ^ 32) ++ body
  l ++ List.replicate ((l.length + 4095) / 4096 * 4096 - l.length) 0

/-- R235: what a completion does to the twin's state: the twin guest's segment is appended while twin mode is active. -/
def Streamed (s t : State) (e : Entry) (flags : BitVec 12) (body : List Byte) : Prop :=
  t.twin = if s.twin.active = true ∧ s.twin.guest = e.guest then { s.twin with stream := s.twin.stream ++ segmentOf e flags body } else s.twin

/-- R253, Table 15-8: the COMPLETE event, governed by the UM_TR_CTRL of the itinerary's context, or the base value where it formed none. -/
def CompleteTraced (s t : State) (e : Entry) (flags : BitVec 12) : Prop :=
  let word : Word := BitVec.ofNat 32 (e.index.toNat + e.cls.toNat * 2 ^ 16 + e.status.toNat * 2 ^ 20 + e.reason.toNat * 2 ^ 24)
  (e.gov = none → TracedFirst s t s.trace.ctrl 0 (trEntry s 0x02 3 e.guest.toNat word (flags.zeroExtend 32))) ∧
  ∀ v b, e.gov = some (v, b) → TracedFirst s t v 0 (trEntry s 0x02 (if b then 1 else 0) e.guest.toNat word (flags.zeroExtend 32))

/-- R192, R193, R199: WATCHDOG alone enters the guest's flags and the instance's, with its counter and the cause of a flag under FMASK. -/
def WatchdogFlagged (s t : State) (g : GuestId) : Prop :=
  (t.guest g).flags = (s.guest g).flags ||| 0x400#12 ∧
  t.exc = { s.exc with flags := s.exc.flags ||| 0x400#12, evCnt := vPut s.exc.evCnt 10 (satAdd (vAt s.exc.evCnt 10) 1) } ∧
  (s.exc.fmask.getLsbD 10 = true → (vAt t.hdr 8).istat.getLsbD 0 = true)

/-- R196, R199: WDOG_END stands in page 8's log with the guest and the index, ISTAT.WDOG is set, and other pages take at most causes. -/
def WatchdogLogged (s t : State) (g : GuestId) (index : BitVec 16) : Prop :=
  LoggedHere (vAt s.hdr 8) (vAt t.hdr 8) 0x51 stDetached (BitVec.ofNat 20 (g.toNat * 2 ^ 14 + index.toNat % 2 ^ 14)) ∧
  (vAt t.hdr 8).istat.getLsbD 2 = true ∧ ∀ p : PageId, p ≠ 8 → CausesGrow (vAt s.hdr p) (vAt t.hdr p)

/-- R44, R47, R48, R51, R197: what every completion posts: the head, UM_GS_LAST and UM_GS_FIRST (a discard, 0x50, reaches UM_GS_LAST only: log
84), the DONE bit under INTR or at the end of a detach, and the guest's PAUSED or DETACHED state. -/
def Posted (s t : State) (e : Entry) : Prop :=
  let x := s.guest e.guest
  let y := t.guest e.guest
  let word := e.status.toNat + e.reason.toNat * 2 ^ 8 + e.index.toNat * 2 ^ 16
  let last : Prop := x.state = .draining ∧ x.head + 1 = x.tail
  y.head = x.head + 1 ∧ y.last.toNat = word ∧
  y.first = (if e.status ≠ stOk ∧ e.reason ≠ 0x50 ∧ x.first.getLsbD 7 = false then y.last ||| 0x80#32 else x.first) ∧
  y.tail = x.tail ∧ y.started = x.started ∧ y.base = x.base ∧
  (last → y.state = .detached) ∧
  (x.state = .active → e.stopover = true ∨ (e.status ≠ stOk ∧ x.stopOnReject = true) → y.state = .paused) ∧
  (¬last → (x.state = .active → e.stopover = false ∧ (e.status = stOk ∨ x.stopOnReject = false)) → y.state = x.state) ∧
  (e.intr = true ∨ last → t.done = s.done ||| (1#64 <<< e.guest.toNat)) ∧
  (e.intr = false → ¬last → t.done = s.done) ∧
  t.entries = s.entries.eraseP (·.guest == e.guest) ∧ ∀ k, k ≠ e.guest → t.guest k = s.guest k

end Sys2Proof.Machine
end

