-- ==== Sys2Proof/Certificates/Slice0/Obligations.lean ====
section
/-! DEFINITION. The statements for the provers: what the commands do to the state, what they leave, and the invariants every step
keeps. -/

open Sys2Proof Sys2Proof.Machine

/-! ### The queue, reset and the invariants -/

/-- The command at the front of the queue takes its effect on the state with the queue's rest (the sender's order of R21). On an
empty queue the block idles: the model's choice, log 3. -/
def Obligations.StepRunsTheFrontCommand : Prop :=
  (∀ (s : State) (c : Instr) (rest : List Instr), s.pending = c :: rest → step s = exec c { s with pending := rest }) ∧
  ∀ s : State, s.pending = [] → step s = .next s

/-- R103: what every reset and a brown-out leave of the vintage state, and that a retention stop keeps it. -/
def Obligations.EveryResetEmptiesVintageState : Prop :=
  VintageAtReset State.reset ∧
  (∀ (s : State) (v : Word), s.unit ≠ .off → (Instr.softwareReset v).wellFormed = true → (Instr.softwareReset v).sole = true →
    v.extractLsb' 16 8 = 0xC3#8 → ∃ t, exec (.softwareReset v) s = .next t ∧ VintageAtReset t) ∧
  (∀ s : State, s.unit ≠ .off → (s.unit = .reset → s.resetN = true) → ∃ t, exec .resetN s = .next t ∧ VintageAtReset t) ∧
  (∀ (s : State) (mv : BitVec 10), s.unit = .off → 500 ≤ mv.toNat → ∃ t, exec (.powerUp mv) s = .next t ∧ VintageAtReset t) ∧
  (∀ (s : State) (mv : BitVec 10), s.unit ≠ .off → mv.toNat < 500 → ∃ t, exec (.brownOut mv) s = .next t ∧ VintageAtReset t) ∧
  (∀ (s : State) (mv : BitVec 10), ∃ t, exec (.retentionEntry mv) s = .next t ∧ t.vint = s.vint ∧ t.tasting = s.tasting) ∧
  ∀ (s : State) (mv : BitVec 10), ∃ t, exec (.retentionExit mv) s = .next t ∧ t.vint = s.vint ∧ t.tasting = s.tasting

/-- The invariants hold in the state right after reset. -/
def Obligations.ResetMeetsTheInvariants : Prop :=
  MemInv State.reset ∧ StepInv State.reset ∧ TraceInv State.reset ∧ FifoInv State.reset ∧ TwinInv State.reset ∧
  QuietInv State.reset ∧ QueueOk State.reset ∧ RingInv State.reset ∧ TwinSettled State.reset ∧ SlotInv State.reset

/-- Every step keeps the memory in its canonical form, whatever it writes: accepted units, records, saves, unspecified bytes. The form
itself (an unlisted byte reads 0, and a written 0 drops the entry) is the model's choice, log 1. -/
def Obligations.MemoryStaysCanonical : Prop :=
  ∀ s t : State, MemInv s → step s = .next t → MemInv t

/-- R257: a debug step runs in HOLD only, and resume, stop and every reset end it. R257 does not name entry to FAULT; that it has ended the
step too, so that stepping reads 0 there, is the model's reading, log 51. -/
def Obligations.DebugStepStaysInHold : Prop :=
  ∀ s t : State, StepInv s → step s = .next t → StepInv t

/-- The event queue, the write FIFO and both twin FIFOs never outgrow their depths (R253, R10, R27); own hashes and partner messages never wait
together, because they are compared as soon as both are there (R237). -/
def Obligations.QueuesNeverOverflow : Prop :=
  (∀ s t : State, TraceInv s → FifoInv s → TwinInv s → step s = .next t → TraceInv t ∧ FifoInv t ∧ TwinInv t) ∧
  ∀ s t : State, TwinSettled s → step s = .next t → TwinSettled t

/-- R42, R43, R47, R51: the head, the started index and the tail of every ring stay in order, with one unposted entry for every
index from head to the started index, whatever the commands are. -/
def Obligations.RingIndicesStayInOrder : Prop :=
  ∀ s t : State, RingInv s → step s = .next t → RingInv t

/-- R177, R178, R181, R232: an itinerary is in execution only in RUN, DRAIN and HOLD (and stays held in FAULT); every unit in the write
FIFO belongs to one; no transfer, save or margin session runs before CALIBRATE has ended. R102, R106, R107, R110, R111: every slot record
passes the check of R111 after every step, and no itinerary stores under an exponent code that a record may not hold. -/
def Obligations.WorkStaysInTheRunningStates : Prop :=
  (∀ s t : State, QuietInv s → step s = .next t → QuietInv t) ∧
  ∀ s t : State, SlotInv s → step s = .next t → SlotInv t

/-! ### The register port -/

/-- A command that writes one register and the same write made as REGISTER_WRITE are one thing, in every state (R21, R239). -/
def Obligations.CommandsAreTheirRegisterWrites : Prop :=
  ∀ (c : Instr) (off : BitVec 16) (v : Word) (s : State),
    c.wellFormed = true → c.port = some (off, v) → exec c s = exec (.registerWrite off v) s

/-- R22: in OFF the instance does not answer; reads return 0 and writes are discarded. -/
def Obligations.OffAnswersNothing : Prop :=
  (∀ (c : Instr) (p : BitVec 16 × Word) (s : State), s.unit = .off → c.wellFormed = true → c.port = some p → exec c s = .next s) ∧
  (∀ (off : BitVec 16) (s : State), s.unit = .off → readReg s off = 0) ∧
  (∀ (off : BitVec 16) (s : State), s.unit = .off → (Instr.lowWordRead off).wellFormed = true →
    exec (.lowWordRead off) s = .next { s with rdata := 0 }) ∧
  ∀ (off : BitVec 16) (n : BitVec 8) (w : Option (BitVec 64)) (s : State), s.unit = .off →
    (Instr.busSize off n w).wellFormed = true →
    exec (.busSize off n w) s = .next (if w.isSome then s
      else if 4 < n.toNat then { s with rdata := 0, rdataLow := 0 } else { s with rdata := 0 })

/-- R20: an access of another size or alignment is not acted on; it is logged as BUS_SIZE with the offset, and a read returns 0, in both words
of its data where it is wider than 32 bits. An aligned 64-bit access is two aligned 32-bit accesses, the lower address first; the upper read
sees what the lower one captured (R249). -/
def Obligations.OddAccessesAreLoggedAlone : Prop :=
  (∀ (off : BitVec 16) (n : BitVec 8) (w : Option (BitVec 64)) (s : State), s.unit ≠ .off →
    (Instr.busSize off n w).wellFormed = true → ¬(n = 8#8 ∧ off.toNat % 8 = 0) →
    ∃ t, exec (.busSize off n w) s = .next t ∧ Logged s { t with rdata := s.rdata, rdataLow := s.rdataLow } 0 0x80 stBadField (off.zeroExtend 20) ∧
      t.rdata = (if w.isSome then s.rdata else 0) ∧ t.rdataLow = if w.isSome ∨ n.toNat ≤ 4 then s.rdataLow else 0) ∧
  ∀ (off : BitVec 16) (v : BitVec 64) (s : State), s.unit ≠ .off → off.toNat % 8 = 0 →
    (∃ t u, exec (.registerWrite off (v.extractLsb' 0 32)) s = .next t ∧
      exec (.registerWrite (off + 4) (v.extractLsb' 32 32)) t = .next u ∧ exec (.busSize off 8 (some v)) s = .next u) ∧
    ∃ t, exec (.busSize off 8 none) s = .next t ∧ t.rdataLow = readReg s off ∧
      (off ≠ 0xD058#16 → off ≠ 0xE110#16 → off ≠ 0xE120#16 → t.rdata = readReg s (off + 4)) ∧
      (off = 0xD058#16 → t.rdata = s.twin.hash.extractLsb' 32 32) ∧
      (∀ r, selectedTaste s.tasting = some r → (off = 0xE110#16 → t.rdata = BitVec.ofNat 32 (r.convSum / 2 ^ 32)) ∧
        (off = 0xE120#16 → t.rdata = BitVec.ofNat 32 (r.fnSum / 2 ^ 32))) ∧
      (selectedTaste s.tasting = none → off = 0xE110#16 ∨ off = 0xE120#16 → t.rdata = 0) ∧
      { t with rdata := s.rdata, rdataLow := s.rdataLow, power := { t.power with beatHi := s.power.beatHi },
               twin := { t.twin with hashHi := s.twin.hashHi },
               tasting := { t.tasting with rec5 := s.tasting.rec5, rec9 := s.tasting.rec9 } } = s

/-- R179: a write that is legal in itself but not in the present unit state has no effect but its logged event, UNIT_STATE with
the page offset, on the page written, whose line rises when its ERR is enabled. R23, R245, Table 1-6: a line is 1 exactly while a bit of
UM_PAGE_ISTAT that UM_PAGE_IEN enables is 1 on a page that feeds it; page 2 shows a DONE bit and page 9 a summary-ready bit as its bit 0.
That a table-window write beyond the table, and a stage or abandon of a reserved id, is logged too in a state that refuses table access,
where R189 has it ignored and not logged whatever else holds, is the model's choice, log 87; that clr_low (UM_HL_CMD), a field no row of
Table 11-5 covers, is refused in RESET, CALIBRATE and BIST is another, log 56. -/
def Obligations.WritesOutOfStateAreOnlyLogged : Prop :=
  let feeds (l : Line) (p : Nat) : Prop :=
    match l with
    | .done => p = 2
    | .error => p = 0 ∨ p = 1 ∨ 3 ≤ p ∧ p ≤ 8 ∨ p = 13
    | .health => 10 ≤ p ∧ p ≤ 12 ∨ p = 14 ∨ p = 15
    | .summary => p = 9
  (∀ (s : State) (l : Line), s.unit ≠ .off →
    (lineUp s l = true ↔ ∃ p : PageId, feeds l p.toNat ∧
      readReg s (winOff p.toNat 0x018) &&& readReg s (winOff p.toNat 0x014) ≠ 0)) ∧
  (∀ (s : State) (p : PageId), s.unit ≠ .off → readReg s (winOff p.toNat 0x018) = ((vAt s.hdr p).istat |||
    (if p = 2 ∧ s.done ≠ 0 ∨ p = 9 ∧ s.ready ≠ 0 then 1#16 else 0#16)).zeroExtend 32) ∧
  ∀ (c : Instr) (off : BitVec 16) (v : Word) (s : State),
    c.wellFormed = true → c.sole = true → c.port = some (off, v) → s.unit ≠ .off → legalUnit c s.unit = false →
    ∃ t, exec c s = .next t ∧ Logged s t (pageOf off) 0x81 stIllegal (BitVec.ofNat 20 (offOf off)) ∧
      ((vAt s.hdr (pageOf off)).ien.getLsbD 15 = true → ∀ l, feeds l (pageOf off).toNat → lineUp t l = true)

/-- More than one command bit: nothing is stored and nothing acts; CMD_MULTI is logged (R45, R110, R111, R119, R182, R186, R191,
R256, R248). That it is judged before the unit state is the model's reading, log 11. -/
def Obligations.SeveralCommandBitsAreRefused : Prop :=
  ∀ (c : Instr) (off : BitVec 16) (v : Word) (s : State),
    c.wellFormed = true → c.port = some (off, v) → 1 < bitCount v (cmdBitsAt off.toNat) → s.unit ≠ .off →
    ∃ t, exec c s = .next t ∧ Logged s t (pageOf off) 0x82 stBadField (BitVec.ofNat 20 (offOf off))

/-- R249: a read of a low word returns its bits and captures the high word; the high word reads as captured, 0 before that. With
kind = 1 and an index above 63 every word of UM_TS_REC reads 0 (R119). -/
def Obligations.LowWordReadsCaptureTheHighWord : Prop :=
  (∀ s : State, s.unit ≠ .off → ∃ t, exec (.lowWordRead 0xA074) s = .next t ∧ t.rdata = s.power.beats.extractLsb' 0 32 ∧
    readReg t 0xA078 = s.power.beats.extractLsb' 32 32 ∧
    { t with rdata := s.rdata, power := { t.power with beatHi := s.power.beatHi } } = s) ∧
  (∀ s : State, s.unit ≠ .off → ∃ t, exec (.lowWordRead 0xD058) s = .next t ∧ t.rdata = s.twin.hash.extractLsb' 0 32 ∧
    readReg t 0xD05C = s.twin.hash.extractLsb' 32 32 ∧
    { t with rdata := s.rdata, twin := { t.twin with hashHi := s.twin.hashHi } } = s) ∧
  (∀ (s : State) (r : Taste), s.unit ≠ .off → selectedTaste s.tasting = some r →
    (∃ t, exec (.lowWordRead 0xE110) s = .next t ∧ t.rdata = BitVec.ofNat 32 r.convSum ∧
      readReg t 0xE114 = BitVec.ofNat 32 (r.convSum / 2 ^ 32) ∧
      { t with rdata := s.rdata, tasting := { t.tasting with rec5 := s.tasting.rec5 } } = s) ∧
    ∃ t, exec (.lowWordRead 0xE120) s = .next t ∧ t.rdata = BitVec.ofNat 32 r.fnSum ∧
      readReg t 0xE124 = BitVec.ofNat 32 (r.fnSum / 2 ^ 32) ∧
      { t with rdata := s.rdata, tasting := { t.tasting with rec9 := s.tasting.rec9 } } = s) ∧
  (∀ s : State, s.unit ≠ .off → readReg s 0xA078 = s.power.beatHi ∧ readReg s 0xD05C = s.twin.hashHi ∧
    (selectedTaste s.tasting ≠ none → readReg s 0xE114 = s.tasting.rec5 ∧ readReg s 0xE124 = s.tasting.rec9) ∧
    (selectedTaste s.tasting = none → ∀ k, k < 16 → readReg s (BitVec.ofNat 16 (0xE100 + 4 * k)) = 0)) ∧
  readReg State.reset 0xA078 = 0 ∧ readReg State.reset 0xD05C = 0 ∧ readReg State.reset 0xE114 = 0 ∧
  readReg State.reset 0xE124 = 0

/-- R242: UM_PAGE_ID of page p reads 0x554D_0000 + n × 0x10 + p in every state except OFF, so it is never 0 there. UM_PAGE_SCRATCH of every
page holds any value in every state but OFF and acts on nothing (R241, R246); reserved header offsets and the reserved words of page 5 take
nothing and are not logged (R4, R179, R191). The RW registers without a command of their own (Tables 6-3, 6-4, 6-7, 11-8 to 11-10, 12-7,
12-10, 13-5, 14-4 to 14-6, 15-3, 15-6; R110, R119, R189, R193, R198, R204, R211, R219, R220, R252, R253) store their fields in the unit states
that take them, read back what they store (UM_TS_CTRL.log2_n at most 16), and are refused with UNIT_STATE in the others. Which states take the
registers that Table 11-5 names by a page only (UM_TS_SEL, UM_TS_SAVE_BASE and the like) is the model's reading, log 56. R23, R44, R173, R224,
R244 and the register tables: status and read-only registers show the fields of their tables. The model's choices: all 16 bits of UM_PAGE_IEN
hold on every page (log 88); log2_n above 16 reads as 16, and beats of 0 as 1 (log 28); a write of UM_PW_TTHR judges hot anew (log 49); when
page 15 is busy and what paced and phase show (log 55); slot_open and sel_open read 0 with their window closed (log 54); pages 7 and 14 stay
busy in FAULT after a transfer or save has stopped (log 106); the step beats left (log 81). -/
def Obligations.HeadersNamePagesAndHoldScratch : Prop :=
  StatusReads ∧ InfoReads ∧
  (∀ (s : State) (p : PageId), s.unit ≠ .off →
      (readReg s (winOff p.toNat 0)).toNat = 0x554D0000 + Config.instanceNo.toNat * 16 + p.toNat) ∧
  (∀ (s : State) (p : PageId) (v : Word), s.unit ≠ .off →
    ∃ t, exec (.registerWrite (winOff p.toNat 0x024) v) s = .next t ∧ readReg t (winOff p.toNat 0x024) = v ∧
      (∀ q, q ≠ p → vAt t.hdr q = vAt s.hdr q) ∧
      { vAt t.hdr p with scratch := (vAt s.hdr p).scratch } = vAt s.hdr p ∧ { t with hdr := s.hdr } = s) ∧
  (∀ (s : State) (p : PageId) (k : Nat) (v : Word), k < 6 → exec (.registerWrite (winOff p.toNat (0x028 + 4 * k)) v) s = .next s) ∧
  (∀ (s : State) (k : Nat) (v : Word), k < 496 → exec (.registerWrite (winOff 5 (0x040 + 4 * k)) v) s = .next s) ∧
  (∀ (s : State) (off : BitVec 16) (m v : Word), s.unit ≠ .off → rwMask off.toNat = some m →
    (rwTakes off.toNat s.unit = true → ∃ t, exec (.registerWrite off v) s = .next t ∧ readReg t off =
      (if off = 0xE040#16 ∧ 16 < (v.extractLsb' 1 5).toNat then (v &&& 0x101#32) ||| 0x20#32 else v &&& m)) ∧
    (rwTakes off.toNat s.unit = false →
      ∃ t, exec (.registerWrite off v) s = .next t ∧ Logged s t (pageOf off) 0x81 stIllegal (BitVec.ofNat 20 (offOf off)))) ∧
  (∀ (s : State) (v : Word), s.unit ≠ .off →
    (∀ p : PageId,
      (∃ t, exec (.registerWrite (winOff p.toNat 0x014) v) s = .next t ∧
        vAt t.hdr p = { vAt s.hdr p with ien := v.extractLsb' 0 16 } ∧ (∀ q, q ≠ p → vAt t.hdr q = vAt s.hdr q) ∧
        { t with hdr := s.hdr } = s) ∧
      ∃ t, exec (.registerWrite (winOff p.toNat 0x020) v) s = .next t ∧
        vAt t.hdr p = { vAt s.hdr p with errCnt := v } ∧ (∀ q, q ≠ p → vAt t.hdr q = vAt s.hdr q) ∧ { t with hdr := s.hdr } = s) ∧
    exec (.registerWrite 0x8044 v) s = .next { s with exc := { s.exc with fmask := v.extractLsb' 0 12 } } ∧
    exec (.registerWrite 0x8048 v) s = .next { s with exc := { s.exc with nanCnt := v } } ∧
    exec (.registerWrite 0x804C v) s = .next { s with exc := { s.exc with ovfCnt := v } } ∧
    exec (.registerWrite 0x8050 v) s = .next { s with exc := { s.exc with sramCnt := v } } ∧
    (∀ k : BitVec 4, k.toNat < 12 → exec (.registerWrite (winOff 8 (0x080 + 4 * k.toNat)) v) s =
      .next { s with exc := { s.exc with evCnt := vPut s.exc.evCnt k v } }) ∧
    exec (.registerWrite 0xF050 v) s = .next { s with trace := { s.trace with lost := v } }) ∧
  (∀ (s : State) (v : Word), s.running = true →
    (∀ g : GuestId, ∃ t, exec (.registerWrite (winOff 1 (0x100 + 0x20 * g.toNat + 8)) v) s = .next t ∧
      t.guest g = { s.guest g with limitUs := v.extractLsb' 0 16 } ∧ (∀ k, k ≠ g → t.guest k = s.guest k) ∧
      { t with guests := s.guests } = s) ∧
    exec (.registerWrite 0x4044 v) s = .next { s with cellar :=
      { s.cellar with selTable := v.extractLsb' 0 4, selWindow := v.extractLsb' 4 2, selView := v.getLsbD 8 } } ∧
    exec (.registerWrite 0x6040 v) s = .next { s with vint :=
      { s.vint with rangeFirst := v.extractLsb' 0 10, rangeLast := v.extractLsb' 16 10 } } ∧
    exec (.registerWrite 0x6044 v) s = .next { s with vint := { s.vint with policy := v &&& 0x00FF7FFF#32 } } ∧
    exec (.registerWrite 0x604C v) s = .next { s with vint := { s.vint with coldrd := v } } ∧
    exec (.registerWrite 0x7048 v) s = .next { s with vint := { s.vint with xbase := v.extractLsb' 0 26 } } ∧
    exec (.registerWrite 0x9040 v) s = .next { s with smCfg := v &&& 0x1F#32 } ∧
    exec (.registerWrite 0xE040 v) s = .next { s with tasting := { s.tasting with ctrl := v &&& 0x13F#32 } } ∧
    exec (.registerWrite 0xE044 v) s = .next { s with tasting := { s.tasting with convThr := v } } ∧
    exec (.registerWrite 0xE048 v) s = .next { s with tasting := { s.tasting with fnThr := v } } ∧
    exec (.registerWrite 0xE04C v) s = .next { s with tasting :=
      { s.tasting with selIndex := v.extractLsb' 0 10, selKind := v.getLsbD 16 } } ∧
    exec (.registerWrite 0xE054 v) s = .next { s with tasting := { s.tasting with saveBase := v.extractLsb' 0 26 } } ∧
    exec (.registerWrite 0xF040 v) s = .next { s with trace := { s.trace with ctrl := v &&& 0xFF03#32 } }) ∧
  ∀ (s : State) (v : Word), s.running = true ∨ s.unit = .fault →
    (∃ t, exec (.registerWrite 0xA040 v) s = .next t ∧ t.power.sprintEn = v.getLsbD 0 ∧
      (t.power.sprintReq = true ↔ v.getLsbD 0 = true ∧ s.power.accountOk = true ∧ s.power.clamped = false ∧
        (s.unit = .run ∨ s.unit = .drain) ∧ (s.power.recent = true ∨ s.inExec ≠ 0) ∧ s.power.holdoff = false) ∧
      (s.power.granted = true → t.power.sprintReq = false → t.power.granted = false ∧ (vAt t.hdr 10).istat.getLsbD 1 = true) ∧
      (t.power.sprintReq = true → t.power.granted = s.power.granted) ∧ HeadersGrow s t ∧ TraceGrows s t ∧
      { t.power with sprintEn := s.power.sprintEn, sprintReq := s.power.sprintReq, granted := s.power.granted } = s.power ∧
      { t with power := s.power, hdr := s.hdr, trace := s.trace } = s) ∧
    exec (.registerWrite 0xA060 v) s = .next { s with power :=
      { s.power with tthr := v.extractLsb' 0 10, hot := decide ((v.extractLsb' 0 10).toNat ≤ s.power.tj.toNat) } } ∧
    exec (.registerWrite 0xA06C v) s = .next { s with power := { s.power with revCnt := v } } ∧
    exec (.registerWrite 0xA070 v) s = .next { s with power := { s.power with proto := v } } ∧
    exec (.registerWrite 0xB080 v) s = .next { s with health := { s.health with cwarn := v.extractLsb' 0 8 } } ∧
    exec (.registerWrite 0xB098 v) s = .next { s with health := { s.health with lowThr := v } } ∧
    exec (.registerWrite 0xC048 v) s = .next { s with test := { s.test with biSel := v.extractLsb' 0 8 } } ∧
    exec (.registerWrite 0xD050 v) s = .next { s with twin := { s.twin with misCnt := v } } ∧
    exec (.registerWrite 0xD054 v) s = .next { s with twin := { s.twin with uncmp := v } }

/-- R3, R194: a write of 1 clears exactly the written W1C bits: ISTAT and ERRLOG.valid of every page, the DONE and READY bits, the
instance and guest flags, the valid bits of UM_GS_FIRST, UM_EX_SRAMERR and UM_TW_MISS; the rest of every record stays (R196).
R245: err_clr clears the page's error log, its count and ISTAT.err as one action, in every state; its own causes stay. -/
def Obligations.ClearsTakeOnlyTheirBits : Prop :=
  (∀ (s : State) (v : Word), s.unit ≠ .off →
    (∀ p : PageId, ∃ t, exec (.w1cClear (winOff p.toNat 0x018) v) s = .next t ∧
      vAt t.hdr p = { vAt s.hdr p with istat := (vAt s.hdr p).istat &&& ~~~(v.extractLsb' 0 16) } ∧
      (∀ q, q ≠ p → vAt t.hdr q = vAt s.hdr q) ∧ { t with hdr := s.hdr } = s) ∧
    (∀ p : PageId, ∃ t, exec (.w1cClear (winOff p.toNat 0x01C) v) s = .next t ∧
      vAt t.hdr p = { vAt s.hdr p with errValid := (vAt s.hdr p).errValid && !v.getLsbD 11 } ∧
      (∀ q, q ≠ p → vAt t.hdr q = vAt s.hdr q) ∧ { t with hdr := s.hdr } = s) ∧
    exec (.w1cClear 0x2040 v) s = .next { s with done := s.done &&& ~~~(v.zeroExtend 64) } ∧
    exec (.w1cClear 0x2044 v) s = .next { s with done := s.done &&& ~~~(v.zeroExtend 64 <<< 32) } ∧
    exec (.w1cClear 0x9044 v) s = .next { s with ready := s.ready &&& ~~~(v.zeroExtend 64) } ∧
    exec (.w1cClear 0x9048 v) s = .next { s with ready := s.ready &&& ~~~(v.zeroExtend 64 <<< 32) } ∧
    exec (.w1cClear 0x8040 v) s = .next { s with exc := { s.exc with flags := s.exc.flags &&& ~~~(v.extractLsb' 0 12) } } ∧
    exec (.w1cClear 0x8054 v) s = .next { s with exc := { s.exc with sramValid := s.exc.sramValid && !v.getLsbD 31 } } ∧
    exec (.w1cClear 0xD04C v) s = .next { s with twin := { s.twin with missValid := s.twin.missValid && !v.getLsbD 31 } } ∧
    ∀ g : GuestId,
      (∃ t, exec (.w1cClear (winOff 8 (0x100 + 4 * g.toNat)) v) s = .next t ∧
        t.guest g = { s.guest g with flags := (s.guest g).flags &&& ~~~(v.extractLsb' 0 12) } ∧
        (∀ k, k ≠ g → t.guest k = s.guest k) ∧ { t with guests := s.guests } = s) ∧
      ∃ t, exec (.w1cClear (winOff 2 (0x100 + 0x10 * g.toNat + 0xC)) v) s = .next t ∧
        t.guest g = { s.guest g with first := if v.getLsbD 7 then (s.guest g).first &&& 0xFFFFFF7F#32 else (s.guest g).first } ∧
        (∀ k, k ≠ g → t.guest k = s.guest k) ∧ { t with guests := s.guests } = s) ∧
  ∀ (s : State) (p : PageId) (v : Word), s.unit ≠ .off → (Instr.errClr p v).wellFormed = true →
    ∃ t, exec (.errClr p v) s = .next t ∧
      vAt t.hdr p = { vAt s.hdr p with errCode := 0, errStatus := 0, errValid := false, errArg := 0, errCnt := 0,
                                       istat := (vAt s.hdr p).istat &&& 0x7FFF#16 } ∧
      (∀ q, q ≠ p → vAt t.hdr q = vAt s.hdr q) ∧ { t with hdr := s.hdr } = s

/-! ### Unit states -/

/-- Table 11-4 (R178): run, stop, hold, resume and bist lead where the table says, a stop with nothing in execution through DRAIN to
IDLE; run is legal outside a voltage-margin session (R232). R214: SPRINT_REQ is as its conditions have it in the new state, and a grant ends
with it. Only the unit state, its causes and events, the sprint request, a debug step, and the BIST's requested mark and ticks change. -/
def Obligations.ControlCommandsFollowTheTable : Prop :=
  ∀ (c : Instr) (s : State) (u : UnitState), controlTarget c s = some u → c.wellFormed = true → c.sole = true →
    ((∃ v, c = .run v) → s.test.vreqEn = false) →
    ∃ t, exec c s = .next t ∧ t.unit = u ∧ HeadersGrow s t ∧
      (u = .idle → (vAt t.hdr 0).istat.getLsbD 1 = true) ∧
      (∀ e, { vAt t.engines e with stepLeft := (vAt s.engines e).stepLeft } = vAt s.engines e) ∧
      { t.trace with queue := s.trace.queue, lost := s.trace.lost, stepping := s.trace.stepping } = s.trace ∧
      (s.unit = .hold → t.trace.stepping = false) ∧
      { t.power with sprintReq := s.power.sprintReq, granted := s.power.granted } = s.power ∧
      { t.test with requested := s.test.requested, vintErr := s.test.vintErr } = s.test ∧
      (u = .bist → t.test.requested = true ∧ t.test.vintErr = none ∧ t.upTicks = 0 ∧ t.power = s.power) ∧
      (u ≠ .bist → t.test = s.test ∧ t.upTicks = s.upTicks ∧ RequestJudged s t) ∧
      { t with unit := s.unit, upTicks := s.upTicks, hdr := s.hdr, engines := s.engines, trace := s.trace, power := s.power,
               test := s.test } = s

/-- R174, R230: a software reset with its key, or RESET_N = 0, takes the instance from any state to RESET with cause 2 or 1 and
every field at its reset value; the ledger fields of R230 stay, and so do scratchpad and what is not the unit's (the supply's
reading, the level of RESET_N, the retention indication, a held VTARGET; log 48). R182: a software reset without its key is
ignored and logged on page 0 as RESET_KEY. That a save that the reset ends has written none of its area (log 93), and that SPRINT_OFF
reads 0 where it ends a grant (log 95), are the model's choices. -/
def Obligations.ResetReturnsEveryField : Prop :=
  ((∀ (s : State) (v : Word), s.unit ≠ .off → (Instr.softwareReset v).wellFormed = true → (Instr.softwareReset v).sole = true →
      v.extractLsb' 16 8 = 0xC3#8 → ∃ t, exec (.softwareReset v) s = .next t ∧ t.resetCause = 2 ∧ t.resetN = s.resetN ∧ AfterReset s t) ∧
    ∀ s : State, s.unit ≠ .off → (s.unit = .reset → s.resetN = true) →
      ∃ t, exec .resetN s = .next t ∧ t.resetCause = 1 ∧ t.resetN = false ∧ AfterReset s t) ∧
  ∀ (s : State) (v : Word), s.unit ≠ .off → (Instr.softwareReset v).wellFormed = true → (Instr.softwareReset v).sole = true →
    v.extractLsb' 16 8 ≠ 0xC3#8 → ∃ t, exec (.softwareReset v) s = .next t ∧ Logged s t 0 0x83 stBadField 0

/-- R25, R174, Table 1-7: below 0.50 V every field of the instance is lost and it is OFF; back above it, it is in RESET as from
power-up, and a reading in the sprint region there is the protocol event of R211; it is held until VDD_U is at 0.57 V or above and RESET_N
is 1 (RESET_N is 0 at power-up: logs 4 and 85), and then CALIBRATE follows the initialisation; between 0.50 V and 0.57 V a retention stop is in
force, with its cause, and it ends at 0.58 V. That the first reading at POWER_UP is judged by R211, and which readings judge the
initialisation, is the model's reading, log 83; eff there, before the first count, is log 94; a save that the brown-out ends has
written none of its area, log 93. -/
def Obligations.SupplyTakesTheUnitDownAndUp : Prop :=
  (∀ (s : State) (mv : BitVec 10), s.unit ≠ .off → mv.toNat < 500 → ∃ t, exec (.brownOut mv) s = .next t ∧
    { t with vddMv := 500, mem := [], poison := [], merged := [], rdata := 0, rdataLow := 0, pmOut := [], twinOut := [], free := 0,
              pending := [] } =
      { State.reset with unit := .off } ∧ t.mem = s.mem ∧ t.pending = s.pending) ∧
  (∀ (s : State) (mv : BitVec 10), s.unit = .off → 500 ≤ mv.toNat → ∃ t, exec (.powerUp mv) s = .next t ∧ t.unit = .reset ∧
    t.resetCause = 0 ∧ t.initRun = false ∧ t.resetN = false ∧ t.vddMv = mv ∧ t.health = .reset ∧ t.guests = State.reset.guests ∧
    t.cellar = .reset ∧ t.mem = s.mem ∧ t.pending = s.pending ∧
    (mv.toNat ≤ 755 → t.power = { Power.reset with heldV := s.power.heldV }) ∧
    (755 < mv.toNat → (vAt t.hdr 10).istat.getLsbD 5 = true ∧ t.power.eff.toNat ≤ t.power.nombeats.toNat ∧
      { t.power with eff := Power.reset.eff } =
        { Power.reset with heldV := s.power.heldV, vsprint := true, protoPace := true, protoCause := true, proto := 1 })) ∧
  (∀ (s : State) (mv : BitVec 10), s.unit = .reset → exec (.resetRelease mv) s =
    .next { s with resetN := true, vddMv := mv, initRun := decide (570 ≤ mv.toNat) }) ∧
  (∀ s : State, s.unit = .reset → s.initRun = true → ∃ t, exec .initDone s = .next t ∧ t.unit = .calibrate ∧ t.trace.ticks = 0 ∧
    HeadersGrow s t ∧ { t with unit := s.unit, initRun := s.initRun, oscDone := s.oscDone, hdr := s.hdr, trace := s.trace } = s) ∧
  (∀ (s : State) (mv : BitVec 10), s.unit ≠ .off → s.retention = false → 500 ≤ mv.toNat → mv.toNat < 570 →
    ∃ t, exec (.retentionEntry mv) s = .next t ∧ t.retention = true ∧
      t.initRun = (if s.unit = .reset then false else s.initRun) ∧ (vAt t.hdr 10).istat.getLsbD 6 = true ∧
      HeadersGrow s t ∧ TraceGrows s t ∧
      { t with vddMv := s.vddMv, retention := s.retention, initRun := s.initRun, hdr := s.hdr, trace := s.trace } = s) ∧
  ∀ (s : State) (mv : BitVec 10), s.retention = true → 580 ≤ mv.toNat →
    ∃ t, exec (.retentionExit mv) s = .next t ∧ t.retention = false ∧ HeadersGrow s t ∧ TraceGrows s t ∧
      t.initRun = (if s.unit = .reset then s.resetN else s.initRun) ∧
      { t with vddMv := s.vddMv, retention := s.retention, initRun := s.initRun, hdr := s.hdr, trace := s.trace } = s

/-- R175, R176, R212: step 1 of CALIBRATE stores the oscillator count and the beats of a window; a count outside 0x02_6666
to 0x04_0000 ends in FAULT with CAL_OSC, where a held VTARGET is answered and the table banks stay unloaded (log 86), and any other begins
step 3 with c_cal the code nearest to VDD_U (of two equally near ones the upper, log 44). After CAL_OSC the pace windows begin. -/
def Obligations.OscillatorCountIsJudged : Prop :=
  ∀ (s : State) (n : BitVec 24) (mv : BitVec 10), QuietInv s → s.unit = .calibrate → s.oscDone = false → 500 ≤ mv.toNat →
    ∃ t, exec (.oscCountDone n mv) s = .next t ∧ t.power.osc = n ∧ t.mem = s.mem ∧ t.guests = s.guests ∧ t.cellar = s.cellar ∧
      (0x26666 ≤ n.toNat ∧ n.toNat ≤ 0x40000 → t.pmOut = s.pmOut ∧ t.power.heldV = s.power.heldV ∧ t.power.vack = s.power.vack) ∧
      (n.toNat < 0x26666 ∨ 0x40000 < n.toNat → HeldAnswered s t) ∧
      (0x26666 ≤ n.toNat ∧ n.toNat ≤ 0x40000 →
        t.unit = .calibrate ∧ t.oscDone = true ∧ t.upTicks = 0 ∧ t.power.nombeats = BitVec.ofNat 16 (4096 * 2 ^ 20 / n.toNat) ∧
        (500 + 10 * t.power.cCal.toNat ≤ mv.toNat + 5 ∧ mv.toNat < 500 + 10 * t.power.cCal.toNat + 5) ∧
        t.power.model = t.power.cCal) ∧
      (n.toNat < 0x26666 ∨ 0x40000 < n.toNat → t.unit = .fault ∧ t.faultCause = 0x01#8 ∧ WindowOpens s t)

/-- R175-R177: CALIBRATE ends when step 3 has measured for 65,536 ticks (counted by LEDGER_TICK: log 7), in BIST with the tables loaded (as a
whole at that end: log 103) and UM_CT_GEN = 1, or in FAULT: CAL_CANARY when an engine reads below 16, else ROM_CHECK when the checksum
fails. R24, R176, R210, R227: either way each engine's m_cal is what was measured, a VTARGET held
from RESET or CALIBRATE is answered, a sprint code with 0x3E and a code out of range with 0x3F, and the expectation of every engine is that
of the acknowledged code, or of the one in force during CALIBRATE. R212, R213: the first pace window begins, with the budget of the PACE and
cap values and of the paces whose cause holds. -/
def Obligations.CalibrateEndsInBistOrFault : Prop :=
  ∀ (s : State) (ok : Bool) (m : BitVec 128), QuietInv s → s.unit = .calibrate → s.oscDone = true →
    (s.upTicks < 65536 → exec (.calibrateEnd ok m) s = .next s) ∧
    (65536 ≤ s.upTicks → ∃ t, exec (.calibrateEnd ok m) s = .next t ∧ t.cellar.loaded = true ∧ t.cellar.gen = 1 ∧ t.cellar.emDq8A = true ∧
      t.cellar.emDq4A = true ∧ t.power.heldV = none ∧ t.power.windowTicks = 0 ∧ t.guests = s.guests ∧ t.vint.slots = s.vint.slots ∧
      (∀ e : EngineId, (vAt t.health.can e).mcal = m.extractLsb' (8 * e.toNat) 8 ∧
        ((vAt t.health.can e).expect.toNat : Int) = max 0 (min 255 ((m.extractLsb' (8 * e.toNat) 8).toNat +
          Config.canaryD t.power.model - Config.canaryD s.power.cCal + 10 * s.test.guard.toNat))) ∧
      HeldAnswered s t ∧ WindowOpens s t ∧ t.power.nombeats = s.power.nombeats ∧
      ((∃ e : EngineId, (m.extractLsb' (8 * e.toNat) 8).toNat < 16) → t.unit = .fault ∧ t.faultCause = 0x02#8) ∧
      ((∀ e : EngineId, 16 ≤ (m.extractLsb' (8 * e.toNat) 8).toNat) →
        if ok then t.unit = .bist ∧ t.upTicks = 0 ∧ t.test = { s.test with requested := false, vintErr := none }
        else t.unit = .fault ∧ t.faultCause = 0x03#8))

/-- R177, R233: a BIST that passes leads to IDLE, one whose selected tests fail to FAULT with BIST_FAIL; VINT fails when it met an
uncorrectable error; page 12 reports the tests, the first failure and the duration, and sets BIST_DONE for a requested one that passed. The
boot BIST takes 2^19 ticks, a requested one what it reports, within the bound of R233; before its ticks have passed, or while a transfer or
a save runs (logs 7 and 46), it does not end. A sweep that ran records the first failing step of each engine whose EDGE was 0, with the
EDGE cause. Neither BIST changes a table, slot, tasting record, overlay or guest. That every selected test without a failure is reported as
passed, also after one that failed, is the model's choice, log 96; which SRAM error VINT meets, and what UM_BI_INFO shows of it, is log 58. -/
def Obligations.BistLeadsToIdleOrFault : Prop :=
  ∀ (s : State) (f : BitVec 8) (info ticks : Word) (edges : BitVec 64), s.unit = .bist →
    let early : Prop := s.vint.xfer ≠ none ∨ s.tasting.save ≠ none ∨
      if s.test.requested then s.upTicks < ticks.toNat ∨ 2 ^ 19 + s.test.sweepMax.toNat * 2 ^ 16 < ticks.toNat else s.upTicks < 2 ^ 19
    let sel : BitVec 8 := if s.test.requested then s.test.biSel else 0xFF#8
    let all : BitVec 8 := if s.test.vintErr = none then f else f ||| 0x20#8
    let step (x : BitVec 64) (e : EngineId) : BitVec 4 := x.extractLsb' (4 * e.toNat) 4
    let swept (e : EngineId) : Prop := s.test.requested = true ∧ all &&& sel = 0 ∧ step s.test.edge e = 0 ∧
      1 ≤ (step edges e).toNat ∧ (step edges e).toNat ≤ s.test.sweepMax.toNat
    (early → exec (.bistEnd f info ticks edges) s = .next s) ∧
    (¬early → QuietInv s → ∃ t, exec (.bistEnd f info ticks edges) s = .next t ∧ t.test.biFail = all &&& sel ∧
      t.test.biPass = sel &&& ~~~all ∧ t.test.vintErr = none ∧ t.test.biTicks = (if s.test.requested then ticks else 0x80000) ∧
      (all &&& sel ≠ 0 → s.test.vintErr = none ∨ sel.getLsbD 5 = false ∨ f &&& sel &&& 0x3F#8 ≠ 0 →
        t.test.biInfo = info &&& 0xFFFFFF07#32) ∧
      (∀ w, s.test.vintErr = some w → sel.getLsbD 5 = true → f &&& sel &&& 0x3F#8 = 0 →
        t.test.biInfo.extractLsb' 0 3 = 5 ∧ t.test.biInfo.extractLsb' 12 20 = w) ∧
      (∀ e, (swept e → step t.test.edge e = step edges e) ∧ (¬swept e → step t.test.edge e = step s.test.edge e)) ∧
      ((∃ e, swept e) → (vAt t.hdr 12).istat.getLsbD 1 = true) ∧
      ((∀ e, ¬swept e) → (vAt t.hdr 12).istat.getLsbD 1 = (vAt s.hdr 12).istat.getLsbD 1) ∧
      { t.test with biPass := s.test.biPass, biFail := s.test.biFail, biInfo := s.test.biInfo, biTicks := s.test.biTicks,
                    edge := s.test.edge, requested := s.test.requested, vintErr := s.test.vintErr } = s.test ∧
      t.cellar = s.cellar ∧ t.vint = s.vint ∧ t.tasting = s.tasting ∧ t.overlays = s.overlays ∧
      t.guests = s.guests ∧ t.mem = s.mem ∧
      (all &&& sel = 0 → t.unit = .idle ∧ t.test.requested = false ∧ (vAt t.hdr 0).istat.getLsbD 1 = true ∧
        (s.test.requested = true → (vAt t.hdr 12).istat.getLsbD 0 = true)) ∧
      (all &&& sel ≠ 0 → t.unit = .fault ∧ t.faultCause = 0x10#8 ∧ (vAt t.hdr 0).istat.getLsbD 0 = true))

/-! ### Guests -/

/-- R46: what a guest command touches. Whatever state it arrives in, a write to guest g's control block leaves every other guest, every
started entry, every context and the scratchpad alone; beside guest g it may set g's DONE bit, log on page 1 and leave events. -/
def Obligations.GuestCommandsTouchOneGuest : Prop :=
  ∀ (g : GuestId) (v : Word) (s : State) (c : Instr),
    c = .attach g v ∨ c = .detachDrain g v ∨ c = .detachNow g v ∨ c = .guestResume g v ∨ c = .doorbell g v ∨
      c = .gqBaseWrite g v ∨ c = .gqCfgWrite g v →
    ∃ t, exec c s = .next t ∧ (∀ k, k ≠ g → t.guest k = s.guest k) ∧ s.done ||| t.done = t.done ∧
      t.done &&& ~~~(1#64 <<< g.toNat) = s.done &&& ~~~(1#64 <<< g.toNat) ∧ TraceGrows s t ∧
      (∀ q : PageId, q ≠ 1 → CausesGrow (vAt s.hdr q) (vAt t.hdr q)) ∧
      { t with guests := s.guests, done := s.done, hdr := s.hdr, trace := s.trace } = s

/-- R46: an attach that passes its checks zeroes the guest's indices, status, flags and mailbox and makes it ACTIVE; the ring must
lie in the scratchpad and share no byte with the ring of an attached guest; with twin mode requested only the twin guest may
attach (R234). R46: the refusals of an attach, in their order: ATTACH_STATE, ATTACH_PARAM, ATTACH_RANGE; each is logged on page 1
and leaves the guest as it was. -/
def Obligations.AttachPassesOrIsRefusedInOrder : Prop :=
  (∀ (g : GuestId) (v : Word) (s : State), s.running = true → (Instr.attach g v).wellFormed = true → (Instr.attach g v).sole = true →
      (s.guest g).state = .detached → (s.twin.enable = true → s.twin.guest = g) →
      2 ≤ (s.guest g).log2Size.toNat → (s.guest g).log2Size.toNat ≤ 12 → (s.guest g).weight ≠ 0 → (s.guest g).base.toNat % 4096 = 0 →
      (s.guest g).base.toNat + 2 ^ (s.guest g).log2Size.toNat * 128 ≤ 0x3000000 →
      (∀ k, (s.guest k).state ≠ .detached →
        (s.guest g).base.toNat + 2 ^ (s.guest g).log2Size.toNat * 128 ≤ (s.guest k).base.toNat ∨
        (s.guest k).base.toNat + 2 ^ (s.guest k).log2Size.toNat * 128 ≤ (s.guest g).base.toNat) →
      ∃ t, exec (.attach g v) s = .next t ∧
        t.guest g = { s.guest g with state := .active, tail := 0, started := 0, head := 0, last := 0, first := 0, flags := 0,
                                     mbox := vAll 3 0, record := none, discard := false } ∧
        (∀ k, k ≠ g → t.guest k = s.guest k) ∧ HeadersGrow s t ∧ TraceGrows s t ∧
        { t with guests := s.guests, hdr := s.hdr, trace := s.trace } = s) ∧
  ∀ (g : GuestId) (v : Word) (s : State), s.running = true → (Instr.attach g v).wellFormed = true → (Instr.attach g v).sole = true →
    let x := s.guest g
    let stateBad := x.state ≠ .detached ∨ (s.twin.enable = true ∧ s.twin.guest ≠ g)
    let paramBad := x.log2Size.toNat < 2 ∨ 12 < x.log2Size.toNat ∨ x.weight = 0 ∨ x.base.toNat % 4096 ≠ 0
    let rangeBad := 0x3000000 < x.base.toNat + 2 ^ x.log2Size.toNat * 128 ∨
      ∃ k, (s.guest k).state ≠ .detached ∧ (ringOf (s.guest k)).meets (ringOf x) = true
    (stateBad → ∃ t, exec (.attach g v) s = .next t ∧ Logged s t 1 0x87 stIllegal (g.zeroExtend 20)) ∧
    (¬stateBad → paramBad → ∃ t, exec (.attach g v) s = .next t ∧ Logged s t 1 0x88 stBadField (g.zeroExtend 20)) ∧
    (¬stateBad → ¬paramBad → rangeBad → ∃ t, exec (.attach g v) s = .next t ∧ Logged s t 1 0x89 stBadRange (g.zeroExtend 20))

/-- R43, R46: a doorbell is accepted exactly when the new tail is at most a ring from the head and not behind the old tail, both mod
2^16; otherwise the tail stays and DOORBELL_RANGE is logged; a DETACHED or DRAINING guest refuses it. -/
def Obligations.DoorbellMovesTheTailOnlyInRange : Prop :=
  ∀ (g : GuestId) (v : Word) (s : State), s.running = true →
    let x := s.guest g
    let n := v.extractLsb' 0 16
    let fits := (n - x.head).toNat ≤ 2 ^ x.log2Size.toNat ∧ (x.tail - x.head).toNat ≤ (n - x.head).toNat
    (x.state = .active ∨ x.state = .paused → fits → ∃ t, exec (.doorbell g v) s = .next t ∧
      t.guest g = { x with tail := n } ∧ (∀ k, k ≠ g → t.guest k = s.guest k) ∧ { t with guests := s.guests } = s) ∧
    (x.state = .active ∨ x.state = .paused → ¬fits → ∃ t, exec (.doorbell g v) s = .next t ∧
      Logged s t 1 0x84 stBadRange (g.zeroExtend 20)) ∧
    (x.state = .detached ∨ x.state = .draining → ∃ t, exec (.doorbell g v) s = .next t ∧
      Logged s t 1 0x85 stIllegal (g.zeroExtend 20))

/-- R45: base and log2_size are locked while the guest is not DETACHED; weight and stop_on_reject are stored in any guest state; a
write that differs from a locked value is logged as CONFIG_LOCKED. -/
def Obligations.RingBaseAndSizeAreLocked : Prop :=
  ∀ (g : GuestId) (v : Word) (s : State), s.running = true →
    let x := s.guest g
    let b := v.extractLsb' 0 26
    let k := v.extractLsb' 0 4
    (x.state = .detached ∨ b = x.base → ∃ t, exec (.gqBaseWrite g v) s = .next t ∧ t.guest g = { x with base := b } ∧
      (∀ j, j ≠ g → t.guest j = s.guest j) ∧ { t with guests := s.guests } = s) ∧
    (x.state ≠ .detached → b ≠ x.base → ∃ t, exec (.gqBaseWrite g v) s = .next t ∧ Logged s t 1 0x86 stIllegal (g.zeroExtend 20)) ∧
    (x.state = .detached ∨ k = x.log2Size → ∃ t, exec (.gqCfgWrite g v) s = .next t ∧
      t.guest g = { x with log2Size := k, weight := v.extractLsb' 8 4, stopOnReject := v.getLsbD 16 } ∧
      (∀ j, j ≠ g → t.guest j = s.guest j) ∧ { t with guests := s.guests } = s) ∧
    (x.state ≠ .detached → k ≠ x.log2Size → ∃ t, exec (.gqCfgWrite g v) s = .next t ∧
      t.guest g = { x with weight := v.extractLsb' 8 4, stopOnReject := v.getLsbD 16 } ∧
      (∀ j, j ≠ g → t.guest j = s.guest j) ∧ Logged s { t with guests := s.guests } 1 0x86 stIllegal (g.zeroExtend 20))

/-- R47, R48, Table 2-9: a detach with nothing pending detaches at once and sets DONE; with entries pending it makes the guest
DRAINING, and detach_now also discards those that have not started; a resume makes a PAUSED guest ACTIVE; the other guest states
refuse them with DETACH_STATE and RESUME_STATE. -/
def Obligations.DetachAndResumeFollowTheGuestState : Prop :=
  ∀ (g : GuestId) (v : Word) (s : State), s.running = true →
    let x := s.guest g
    ((Instr.detachDrain g v).wellFormed = true → (Instr.detachDrain g v).sole = true →
      (x.state = .active ∨ x.state = .paused → ∃ t, exec (.detachDrain g v) s = .next t ∧
        t.guest g = (if x.head = x.tail then { x with state := .detached, discard := false, record := none }
                     else { x with state := .draining }) ∧
        t.done = (if x.head = x.tail then s.done ||| (1#64 <<< g.toNat) else s.done) ∧ HeadersGrow s t) ∧
      (x.state = .detached ∨ x.state = .draining → ∃ t, exec (.detachDrain g v) s = .next t ∧
        Logged s t 1 0x8B stIllegal (g.zeroExtend 20))) ∧
    ((Instr.detachNow g v).wellFormed = true → (Instr.detachNow g v).sole = true →
      (x.state ≠ .detached → ∃ t, exec (.detachNow g v) s = .next t ∧
        t.guest g = (if x.head = x.tail then { x with state := .detached, discard := false, record := none }
                     else { x with state := .draining, discard := true }) ∧
        t.done = (if x.head = x.tail then s.done ||| (1#64 <<< g.toNat) else s.done) ∧ HeadersGrow s t) ∧
      (x.state = .detached → ∃ t, exec (.detachNow g v) s = .next t ∧ Logged s t 1 0x8B stIllegal (g.zeroExtend 20))) ∧
    ((Instr.guestResume g v).wellFormed = true → (Instr.guestResume g v).sole = true →
      (x.state = .paused → ∃ t, exec (.guestResume g v) s = .next t ∧ t.guest g = { x with state := .active } ∧
        (∀ k, k ≠ g → t.guest k = s.guest k) ∧ HeadersGrow s t ∧ { t with guests := s.guests, hdr := s.hdr, trace := s.trace } = s) ∧
      (x.state ≠ .paused → ∃ t, exec (.guestResume g v) s = .next t ∧ Logged s t 1 0x8A stIllegal (g.zeroExtend 20)))

/-! ### Overlays and tables -/

/-- R186, R248: the overlay window. open copies the overlay that the write names, unless another is open (OVL_OPEN) or an
itinerary in execution holds it (OVL_BUSY); discard closes it; while it is open a data write changes the copy alone, and while it
is closed it is logged as OVL_NOT_OPEN. That an open of the overlay already open takes a fresh copy, a discard with the window closed does
nothing and is not logged, and a refused open still stores sel is log 47; that OVL_OPEN is judged before OVL_BUSY is log 77. R185, R186: an
apply whose copy passes replaces the overlay and closes the window; a copy
with a failing entry changes nothing but UM_OV_STAT.bad_entry, which names the first failing one, and logs OVL_ENTRY. That an entry whose
target word has a nonzero bit in [31:16] fails is the model's choice, log 74; a count above 64 with no failing entry is refused too, and
names an entry that no rule gives (log 34). -/
def Obligations.OverlayWindowEditsAndApplies : Prop :=
  (∀ (s : State) (v : Word), s.running = true →
      let k : BitVec 3 := v.extractLsb' 0 3
      ((Instr.overlayOpen v).wellFormed = true → (Instr.overlayOpen v).sole = true →
        ((∀ w, s.ovWin = some w → w.sel = k) → overlayHeld s k.toNat = false →
          exec (.overlayOpen v) s = .next { s with ovSel := k, ovWin := some ⟨k, vAt s.overlays k⟩ }) ∧
        (∀ w, s.ovWin = some w → w.sel ≠ k →
          ∃ t, exec (.overlayOpen v) s = .next t ∧ Logged { s with ovSel := k } t 3 0x98 stIllegal (w.sel.zeroExtend 20)) ∧
        ((∀ w, s.ovWin = some w → w.sel = k) → overlayHeld s k.toNat = true →
          ∃ t, exec (.overlayOpen v) s = .next t ∧ Logged { s with ovSel := k } t 3 0x99 stIllegal (k.zeroExtend 20))) ∧
      ((Instr.overlayDiscard v).wellFormed = true → (Instr.overlayDiscard v).sole = true →
        exec (.overlayDiscard v) s = .next { s with ovSel := k, ovWin := none }) ∧
      ∀ off : BitVec 12, (Instr.overlayWindowWrite off v).wellFormed = true →
        (∀ w, s.ovWin = some w → ∃ t u, exec (.overlayWindowWrite off v) s = .next t ∧ t.ovWin = some u ∧ u.sel = w.sel ∧
          readReg t (winOff 3 off.toNat) = (if off = 0x048#12 then v &&& 0x7F#32 else v) ∧
          (∀ i : BitVec 7, off.toNat ≠ 0x200 + 4 * i.toNat → vAt u.copy.ents i = vAt w.copy.ents i) ∧
          (off ≠ 0x048#12 → u.copy.count = w.copy.count) ∧ { t with ovWin := s.ovWin } = s) ∧
        (s.ovWin = none → ∃ t, exec (.overlayWindowWrite off v) s = .next t ∧ Logged s t 3 0x9B stIllegal (off.zeroExtend 20))) ∧
  ∀ (s : State) (v : Word) (w : OvWindow), s.running = true → (Instr.overlayApply v).wellFormed = true →
    (Instr.overlayApply v).sole = true → s.ovWin = some w →
    let good (i : Nat) : Prop :=
      if i < w.copy.count.toNat then ∃ m, ctxRegMask (w.copy.target i) = some m ∧ w.copy.value i &&& ~~~m = 0
      else w.copy.target i = 0 ∧ w.copy.value i = 0
    ((∀ i, i < 64 → good i) → w.copy.count.toNat ≤ 64 → ∃ t, exec (.overlayApply v) s = .next t ∧ t.ovWin = none ∧
      vAt t.overlays w.sel = w.copy ∧ (∀ k, k ≠ w.sel → vAt t.overlays k = vAt s.overlays k) ∧ HeadersGrow s t ∧ TraceGrows s t ∧
      { t with ovSel := s.ovSel, ovWin := s.ovWin, overlays := s.overlays, hdr := s.hdr, trace := s.trace } = s) ∧
    ((∀ i, i < 64 → good i) → w.copy.count.toNat ≤ 64 → ∃ t, exec (.overlayApply v) s = .next t ∧
      Traced s t s.trace.ctrl 3 (trEntry s 0x19 3 0 (w.sel.zeroExtend 32) (w.copy.count.zeroExtend 32))) ∧
    ((∀ i, i < 64 → good i) → 64 < w.copy.count.toNat → ∃ t n, exec (.overlayApply v) s = .next t ∧ t.ovBad = n ∧
      Logged { s with ovSel := v.extractLsb' 0 3, ovBad := n, free := s.free + 1 } t 3 0x9A stBadField (n.zeroExtend 20)) ∧
    (∀ n : BitVec 6, ¬good n.toNat → (∀ i, i < n.toNat → good i) → ∃ t, exec (.overlayApply v) s = .next t ∧ t.ovBad = n ∧
      Logged { s with ovSel := v.extractLsb' 0 3, ovBad := n } t 3 0x9A stBadField (n.zeroExtend 20))

/-- R189: stage copies the active bank of a table that is not STAGING into its inactive bank, when that is not in use, and marks the
table; abandon takes the mark back; a core table refuses both with CORE_ROM, and a reserved id ignores both unlogged. R188, R193: a stage whose
inactive bank is in use raises TABLE_GEN, counts it, and logs BANK_BUSY on page 4 with the table's id. -/
def Obligations.StageAndAbandonAFreeBank : Prop :=
  ∀ (s : State) (v : Word), s.running = true →
    let t := s.cellar.selTable.toNat
    ((Instr.tableStage v).wellFormed = true → (Instr.tableStage v).sole = true →
      (t < 3 → staging s.cellar t = false → inactiveBusy s t = false → ∃ u, exec (.tableStage v) s = .next u ∧
        staging u.cellar t = true ∧ activeBank u.cellar t = activeBank s.cellar t ∧
        (∀ k, k < tableSize t / 4 → tableWord u.cellar t (!activeBank s.cellar t) k = tableWord s.cellar t (activeBank s.cellar t) k) ∧
        (∀ i, i < 3 → ∀ k, tableWord u.cellar i (activeBank s.cellar i) k = tableWord s.cellar i (activeBank s.cellar i) k) ∧
        (∀ i, i ≠ t → staging u.cellar i = staging s.cellar i) ∧ u.cellar.gen = s.cellar.gen ∧ { u with cellar := s.cellar } = s) ∧
      (t < 3 → staging s.cellar t = true → ∃ u, exec (.tableStage v) s = .next u ∧ Logged s u 4 0xA2 stIllegal (BitVec.ofNat 20 t)) ∧
      (t < 3 → staging s.cellar t = false → inactiveBusy s t = true → ∃ u, exec (.tableStage v) s = .next u ∧
        u.exc.flags = s.exc.flags ||| 0x200#12 ∧ vAt u.exc.evCnt 9 = satAdd (vAt s.exc.evCnt 9) 1 ∧
        (∀ k : BitVec 4, k ≠ 9 → k.toNat < 12 → vAt u.exc.evCnt k = vAt s.exc.evCnt k) ∧
        (0x200#12 &&& s.exc.fmask ≠ 0 → (vAt u.hdr 8).istat.getLsbD 0 = true) ∧
        LoggedHere (vAt s.hdr 4) (vAt u.hdr 4) 0xA0 stIllegal (BitVec.ofNat 20 t) ∧ (∀ q : PageId, q ≠ 4 → CausesGrow (vAt s.hdr q) (vAt u.hdr q)) ∧
        Traced s u s.trace.ctrl 6 (logEntry s 4 0xA0 stIllegal (BitVec.ofNat 20 t)) ∧
        { u with exc := { u.exc with flags := s.exc.flags, evCnt := s.exc.evCnt }, hdr := s.hdr, trace := s.trace } = s) ∧
      (8 ≤ t → ∃ u, exec (.tableStage v) s = .next u ∧ Logged s u 4 0xA1 stBadField (BitVec.ofNat 20 t)) ∧
      (3 ≤ t → t < 8 → exec (.tableStage v) s = .next s)) ∧
    ((Instr.tableAbandon v).wellFormed = true → (Instr.tableAbandon v).sole = true →
      (t < 3 → staging s.cellar t = true → ∃ u, exec (.tableAbandon v) s = .next u ∧ staging u.cellar t = false ∧
        (∀ i, i ≠ t → staging u.cellar i = staging s.cellar i) ∧
        (∀ i b k, tableWord u.cellar i b k = tableWord s.cellar i b k) ∧ u.cellar.gen = s.cellar.gen ∧ { u with cellar := s.cellar } = s) ∧
      (t < 3 → staging s.cellar t = false →
        ∃ u, exec (.tableAbandon v) s = .next u ∧ Logged s u 4 0xA3 stIllegal (BitVec.ofNat 20 t)) ∧
      (8 ≤ t → ∃ u, exec (.tableAbandon v) s = .next u ∧ Logged s u 4 0xA1 stBadField (BitVec.ofNat 20 t)) ∧
      (3 ≤ t → t < 8 → exec (.tableAbandon v) s = .next s))

/-- R189, R61: a window write goes to the inactive bank of a STAGING table shown with view = 0, and reads back; every other one is
judged by the first row of R189's table that applies. -/
def Obligations.WindowWritesReachStagedBanksOnly : Prop :=
  ∀ (s : State) (w : BitVec 9) (v : Word), s.running = true → s.cellar.loaded = true →
    let t := s.cellar.selTable.toNat
    let a := 2048 * s.cellar.selWindow.toNat + 4 * w.toNat
    (tableSize t ≤ a → exec (.tableWindowWrite w v) s = .next s) ∧
    (a < tableSize t → 8 ≤ t → ∃ u, exec (.tableWindowWrite w v) s = .next u ∧ Logged s u 4 0xA1 stBadField (BitVec.ofNat 20 t)) ∧
    (a < tableSize t → t < 8 → s.cellar.selView = true →
      ∃ u, exec (.tableWindowWrite w v) s = .next u ∧ Logged s u 4 0xA4 stIllegal (BitVec.ofNat 20 t)) ∧
    (a < tableSize t → t < 8 → s.cellar.selView = false → staging s.cellar t = false →
      ∃ u, exec (.tableWindowWrite w v) s = .next u ∧ Logged s u 4 0xA3 stIllegal (BitVec.ofNat 20 t)) ∧
    (a < 4096 → t = 0 → s.cellar.selView = false → staging s.cellar t = true →
      ∃ u, exec (.tableWindowWrite w v) s = .next u ∧ Logged s u 4 0xA5 stBadField (BitVec.ofNat 20 (a / 128))) ∧
    (a < tableSize t → t < 8 → s.cellar.selView = false → staging s.cellar t = true → (t = 0 → 4096 ≤ a) →
      ∃ u, exec (.tableWindowWrite w v) s = .next u ∧ readReg u (winOff 5 (0x800 + 4 * w.toNat)) = v ∧
        (∀ w' : BitVec 9, w' ≠ w → windowRead u.cellar w' = windowRead s.cellar w') ∧
        (∀ i k, tableWord u.cellar i (activeBank s.cellar i) k = tableWord s.cellar i (activeBank s.cellar i) k) ∧
        { u with cellar := s.cellar } = s)

/-- R190: a commit whose staged BLEND bank passes makes every staged bank the active one together, ends STAGING and moves UM_CT_GEN
on, past every value with low 8 bits 0; a failing image, or nothing staged, changes no table. R56-R58, R61: an image fails by its header, by an
instruction (of a CONV image also the one that exceeds its budget: log 24) or by a word that has to be zero, and the lowest failing slot and
word are named. R255: the COMMIT event. -/
def Obligations.CommitSwitchesEveryStagedBank : Prop :=
  (∀ c : Cellar, ImageCheck c) ∧
  ∀ (s : State) (v : Word), s.running = true → (Instr.tableCommit v).wellFormed = true → (Instr.tableCommit v).sole = true →
    let any := s.cellar.stBlend || s.cellar.stDq8 || s.cellar.stDq4
    (any = true → (s.cellar.stBlend = true → badImage s.cellar = none) → ∃ t, exec (.tableCommit v) s = .next t ∧
      (∀ i, i < 3 → activeBank t.cellar i = (activeBank s.cellar i != staging s.cellar i) ∧ staging t.cellar i = false) ∧
      (∀ i b k, i < 3 → tableWord t.cellar i b k = tableWord s.cellar i b k) ∧
      t.cellar.gen.toNat % 256 ≠ 0 ∧ (t.cellar.gen = s.cellar.gen + 1 ∨ (t.cellar.gen = s.cellar.gen + 2 ∧ (s.cellar.gen + 1).toNat % 256 = 0)) ∧
      (s.cellar.stDq8 = true → (if t.cellar.actDq8 then t.cellar.emDq8B else t.cellar.emDq8A) = false) ∧
      (s.cellar.stDq4 = true → (if t.cellar.actDq4 then t.cellar.emDq4B else t.cellar.emDq4A) = false) ∧
      HeadersGrow s t ∧ Traced s t s.trace.ctrl 3 (trEntry s 0x18 3 0 (BitVec.ofNat 32 ((if s.cellar.stBlend then 1 else 0) +
        (if s.cellar.stDq8 then 2 else 0) + (if s.cellar.stDq4 then 4 else 0))) t.cellar.gen) ∧
      { t with cellar := s.cellar, hdr := s.hdr, trace := s.trace } = s) ∧
    (∀ p : Nat × Nat, s.cellar.stBlend = true → badImage s.cellar = some p → ∃ t, exec (.tableCommit v) s = .next t ∧
      Logged s t 4 0xA6 stBadField (BitVec.ofNat 20 (p.1 + 64 * p.2))) ∧
    (any = false → ∃ t, exec (.tableCommit v) s = .next t ∧
      Logged s t 4 0xA3 stIllegal (BitVec.ofNat 20 s.cellar.selTable.toNat))

/-! ### Vintage and tasting -/

/-- R110: set_policy and clear act on every slot of the range and on no other, unless R110 refuses them: RANGE_ORDER, then (for
set_policy) VPOL_FIELD, then VSLOT_BUSY with the first busy slot; a refusal changes no slot. R102, R111, Table 6-2: a policy word passes
when it holds no reserved value, and a record when none of R111's five conditions holds. -/
def Obligations.SlotCommandsActOnTheWholeRange : Prop :=
  RecordCheck ∧
  ∀ (s : State) (v : Word), s.running = true →
    let lo := s.vint.rangeFirst.toNat
    let hi := s.vint.rangeLast.toNat
    let busy (k : Nat) : Prop := slotPinned s k = true ∨ slotOpen s k = true
    let free : Prop := ∀ k, lo ≤ k → k ≤ hi → ¬busy k
    let only (t : State) : Prop := { t with vint := { t.vint with slots := s.vint.slots } } = s
    ((Instr.setPolicy v).wellFormed = true → (Instr.setPolicy v).sole = true →
      (lo ≤ hi → policyOk s.vint.policy = true → free → ∃ t, exec (.setPolicy v) s = .next t ∧ only t ∧
        ∀ k : SlotId, if lo ≤ k.toNat ∧ k.toNat ≤ hi then
            recPolicy (vAt t.vint.slots k) = s.vint.policy ∧
            (recEmpty (vAt s.vint.slots k) = true → vAt t.vint.slots k = vPut (vAt s.vint.slots k) 1 s.vint.policy) ∧
            (recEmpty (vAt s.vint.slots k) = false →
              recVWrite (vAt t.vint.slots k) =
                BitVec.ofInt 8 (chosenExp (recMax (vPut (vAt s.vint.slots k) 1 s.vint.policy)) s.vint.policy) ∧
              recVRead (vAt t.vint.slots k) = recVRead (vAt s.vint.slots k) ∧
              ∀ w, w ≠ 1 → w ≠ 2 → vAt (vAt t.vint.slots k) w = vAt (vAt s.vint.slots k) w)
          else vAt t.vint.slots k = vAt s.vint.slots k) ∧
      (hi < lo → ∃ t, exec (.setPolicy v) s = .next t ∧ Logged s t 6 0x90 stBadField (BitVec.ofNat 20 lo)) ∧
      (lo ≤ hi → policyOk s.vint.policy = false → ∃ t, exec (.setPolicy v) s = .next t ∧ Logged s t 6 0x91 stBadField 0) ∧
      (∀ k, lo ≤ k → k ≤ hi → busy k → (∀ j, lo ≤ j → j < k → ¬busy j) → policyOk s.vint.policy = true →
        ∃ t, exec (.setPolicy v) s = .next t ∧ Logged s t 6 0x92 stIllegal (BitVec.ofNat 20 k))) ∧
    ((Instr.vsClear v).wellFormed = true → (Instr.vsClear v).sole = true →
      (lo ≤ hi → free → ∃ t, exec (.vsClear v) s = .next t ∧ only t ∧
        ∀ k : SlotId, vAt t.vint.slots k = if lo ≤ k.toNat ∧ k.toNat ≤ hi then slotReset else vAt s.vint.slots k) ∧
      (hi < lo → ∃ t, exec (.vsClear v) s = .next t ∧ Logged s t 6 0x90 stBadField (BitVec.ofNat 20 lo)) ∧
      (∀ k, lo ≤ k → k ≤ hi → busy k → (∀ j, lo ≤ j → j < k → ¬busy j) →
        ∃ t, exec (.vsClear v) s = .next t ∧ Logged s t 6 0x92 stIllegal (BitVec.ofNat 20 k)))

/-- R111, R248: open takes the copy of the named slot and of its group's bitmap, unless the slot is pinned (VSLOT_BUSY), another
is open (VW_OPEN) or a transfer runs (VW_BUSY). R111: apply writes record and bitmap as one action and closes the window when the
record passes, and otherwise logs VREC_FIELD with nothing written; discard closes it; data writes change the copy alone; each is
logged as VW_NOT_OPEN while it is closed. That an open of the slot already open takes a fresh copy, and a refused open still stores the slot
field, is log 47; the order of open's refusals is log 69. Which records pass is R111's five conditions. -/
def Obligations.VintageWindowEditsACopy : Prop :=
  RecordCheck ∧
  (∀ (s : State) (v : Word), s.running = true → (Instr.vwOpen v).wellFormed = true → (Instr.vwOpen v).sole = true →
      let k : SlotId := v.extractLsb' 0 10
      let s' : State := { s with vint := { s.vint with ctrlSlot := k } }
      let same : Prop := ∀ w, s.vint.window = some w → w.slot = k
      (slotPinned s k.toNat = false → same → s.vint.xfer = none → exec (.vwOpen v) s = .next { s' with vint :=
        { s'.vint with window := some ⟨k, vAt s.vint.slots k, vAt s.vint.maps (k.extractLsb' 4 6)⟩ } }) ∧
      (slotPinned s k.toNat = true → ∃ t, exec (.vwOpen v) s = .next t ∧ Logged s' t 7 0x92 stIllegal (k.zeroExtend 20)) ∧
      (∀ w, slotPinned s k.toNat = false → s.vint.window = some w → w.slot ≠ k →
        ∃ t, exec (.vwOpen v) s = .next t ∧ Logged s' t 7 0x93 stIllegal (w.slot.zeroExtend 20)) ∧
      (slotPinned s k.toNat = false → same → s.vint.xfer.isSome = true →
        ∃ t, exec (.vwOpen v) s = .next t ∧ Logged s' t 7 0x94 stIllegal 0)) ∧
  ∀ (s : State) (v : Word), s.running = true →
    let s' : State := { s with vint := { s.vint with ctrlSlot := v.extractLsb' 0 10 } }
    ((Instr.vwApply v).wellFormed = true → (Instr.vwApply v).sole = true →
      (∀ w, s.vint.window = some w → recordOk w.record = true → exec (.vwApply v) s = .next { s' with vint := { s'.vint with
        slots := vPut s.vint.slots w.slot w.record, maps := vPut s.vint.maps (w.slot.extractLsb' 4 6) w.map, window := none } }) ∧
      (∀ w, s.vint.window = some w → recordOk w.record = false →
        ∃ t, exec (.vwApply v) s = .next t ∧ Logged s' t 7 0x96 stBadField (w.slot.zeroExtend 20)) ∧
      (s.vint.window = none → ∃ t, exec (.vwApply v) s = .next t ∧ Logged s' t 7 0x95 stIllegal 0x040)) ∧
    ((Instr.vwDiscard v).wellFormed = true → (Instr.vwDiscard v).sole = true →
      (s.vint.window.isSome = true → exec (.vwDiscard v) s = .next { s' with vint := { s'.vint with window := none } }) ∧
      (s.vint.window = none → ∃ t, exec (.vwDiscard v) s = .next t ∧ Logged s' t 7 0x95 stIllegal 0x040)) ∧
    ∀ off : BitVec 12, (Instr.vwDataWrite off v).wellFormed = true →
      (∀ w, s.vint.window = some w → ∃ t u, exec (.vwDataWrite off v) s = .next t ∧ t.vint.window = some u ∧ u.slot = w.slot ∧
        readReg t (winOff 7 off.toNat) = v ∧
        (∀ i : BitVec 4, off.toNat ≠ 0x100 + 4 * i.toNat → vAt u.record i = vAt w.record i) ∧
        (∀ i, i < 128 → off.toNat ≠ 0x200 + 4 * i → mapWord u.map i = mapWord w.map i) ∧
        { t with vint := { t.vint with window := s.vint.window } } = s) ∧
      (s.vint.window = none → ∃ t, exec (.vwDataWrite off v) s = .next t ∧ Logged s t 7 0x95 stIllegal (off.zeroExtend 20))

/-- R112, R248: a transfer command stores its fields and starts the transfer, or is refused by the first row of R112's table that
applies: XFER_RANGE by count, by alignment or by area, VSLOT_BUSY, VW_BUSY. That the table's rows are judged in this order is the model's
choice, log 70, and that a refused transfer still stores its fields is log 47. -/
def Obligations.TransfersStartOrAreRefusedInOrder : Prop :=
  ∀ (c : Instr) (op : XferOp) (v : Word) (s : State),
    (c = .saveSlots v ∧ op = .saveSlots) ∨ (c = .restoreSlots v ∧ op = .restoreSlots) ∨ (c = .saveMaps v ∧ op = .saveMaps) ∨
      (c = .restoreMaps v ∧ op = .restoreMaps) → c.wellFormed = true → s.running = true →
    let first := (v.extractLsb' 0 10).toNat
    let count := (v.extractLsb' 10 10).toNat + 1
    let base := s.vint.xbase.toNat
    let unit := if op = .saveSlots ∨ op = .restoreSlots then 1 else 16
    let size := if op = .saveSlots ∨ op = .restoreSlots then 64 else 512
    let s' : State := { s with vint := { s.vint with xfirst := v.extractLsb' 0 10, xcountM1 := v.extractLsb' 10 10,
                                                     xop := v.extractLsb' 20 2 } }
    let busy (k : Nat) : Prop := slotPinned s k = true ∨ slotOpen s k = true
    let inRange : Prop := (first + count) * unit ≤ 1024 ∧ base % 64 = 0
    let inArea : Prop := base + size * count ≤ 0x3000000
    let free : Prop := ∀ k, unit * first ≤ k → k < unit * (first + count) → ¬busy k
    (inRange → inArea → free → s.vint.xfer = none →
      exec c s = .next { s' with vint := { s'.vint with xfer := some ⟨op, first, count, base⟩ } }) ∧
    (¬inRange → ∃ t, exec c s = .next t ∧ Logged s' t 7 0x97 stBadField 0) ∧
    (inRange → ¬inArea → ∃ t, exec c s = .next t ∧ Logged s' t 7 0x97 stBadRange 0) ∧
    (∀ k, inRange → inArea → unit * first ≤ k → k < unit * (first + count) → busy k → (∀ j, unit * first ≤ j → j < k → ¬busy j) →
      ∃ t, exec c s = .next t ∧ Logged s' t 7 0x92 stIllegal (BitVec.ofNat 20 k)) ∧
    (inRange → inArea → free → s.vint.xfer.isSome = true → ∃ t, exec c s = .next t ∧ Logged s' t 7 0x94 stIllegal 0)

/-- R112: the end of a save. The record of slot first + i lies at XBASE + 64·i, the bitmap of group first + i at XBASE + 512·i,
little-endian; every byte outside the save area is as it was, and nothing else changes but busy. R112, R111: the end of a restore
of records that all pass, in segments without a poison mark: the slots of the range hold what the save area holds (R112: the groups of
the range, their bitmaps), every other slot and every other bitmap is as it was, and no byte of scratchpad changes. R19, R112: the first
record that fails its check, or lies in a poisoned segment, stops the restore: those before it are applied, no other is, and VREC_FIELD is
logged with its slot (a group's first one: log 33), each poisoned segment read being logged on page 8. -/
def Obligations.TransfersMoveTheirRecords : Prop :=
  (∀ (s : State) (x : Xfer), MemInv s → s.vint.xfer = some x → s.transfers = true → twinFull s = false →
      x.op = .saveSlots ∨ x.op = .saveMaps → x.base + x.op.size * x.count ≤ 0x3000000 →
      ∃ t, exec .transferComplete s = .next t ∧ { t with mem := s.mem, vint := { t.vint with xfer := s.vint.xfer } } = s ∧
        t.vint.xfer = none ∧ (∀ a, a < x.base ∨ x.base + x.op.size * x.count ≤ a → memByte t.mem a = memByte s.mem a) ∧
        (x.op = .saveSlots → ∀ i, i < x.count → ∀ w : BitVec 4,
          memWord t.mem (x.base + 64 * i + 4 * w.toNat) = vAt (vAt s.vint.slots (BitVec.ofNat 10 (x.first + i))) w) ∧
        (x.op = .saveMaps → ∀ i, i < x.count → ∀ w, w < 128 →
          memWord t.mem (x.base + 512 * i + 4 * w) = mapWord (vAt s.vint.maps (BitVec.ofNat 6 (x.first + i))) w)) ∧
  (∀ (s : State) (x : Xfer), s.vint.xfer = some x → s.transfers = true → x.op = .restoreSlots → x.base % 64 = 0 →
    x.base + 64 * x.count ≤ 0x3000000 → x.first + x.count ≤ 1024 →
    (∀ g ∈ s.poison, 64 * g + 64 ≤ x.base ∨ x.base + 64 * x.count ≤ 64 * g) →
    (∀ i, i < x.count → recordOk (readRecord s.mem (x.base + 64 * i)) = true) →
    ∃ t, exec .transferComplete s = .next t ∧ { t with vint := { t.vint with xfer := s.vint.xfer, slots := s.vint.slots } } = s ∧
      t.vint.xfer = none ∧
      (∀ i, i < x.count → vAt t.vint.slots (BitVec.ofNat 10 (x.first + i)) = readRecord s.mem (x.base + 64 * i)) ∧
      ∀ k : SlotId, k.toNat < x.first ∨ x.first + x.count ≤ k.toNat → vAt t.vint.slots k = vAt s.vint.slots k) ∧
  ∀ (s : State) (x : Xfer), s.vint.xfer = some x → s.transfers = true → x.op = .restoreSlots ∨ x.op = .restoreMaps → x.base % 64 = 0 →
    x.base + x.op.size * x.count ≤ 0x3000000 → x.first + x.count ≤ (if x.op = .restoreSlots then 1024 else 64) →
    let clean (i : Nat) : Prop := ∀ g ∈ s.poison, 64 * g + 64 ≤ x.base + x.op.size * i ∨ x.base + x.op.size * (i + 1) ≤ 64 * g
    let good (i : Nat) : Prop := clean i ∧ (x.op = .restoreSlots → recordOk (readRecord s.mem (x.base + 64 * i)) = true)
    let took (t : State) (n : Nat) : Prop :=
      (∀ i, i < n → x.op = .restoreSlots → vAt t.vint.slots (BitVec.ofNat 10 (x.first + i)) = readRecord s.mem (x.base + 64 * i)) ∧
      (∀ i w, i < n → w < 128 → x.op = .restoreMaps →
        mapWord (vAt t.vint.maps (BitVec.ofNat 6 (x.first + i))) w = memWord s.mem (x.base + 512 * i + 4 * w)) ∧
      (∀ k : SlotId, x.op = .restoreMaps ∨ k.toNat < x.first ∨ x.first + n ≤ k.toNat → vAt t.vint.slots k = vAt s.vint.slots k) ∧
      (∀ k : BitVec 6, x.op = .restoreSlots ∨ k.toNat < x.first ∨ x.first + n ≤ k.toNat → vAt t.vint.maps k = vAt s.vint.maps k) ∧
      { t.vint with xfer := s.vint.xfer, slots := s.vint.slots, maps := s.vint.maps } = s.vint ∧ t.vint.xfer = none
    ((∀ i, i < x.count → good i) →
      ∃ t, exec .transferComplete s = .next t ∧ took t x.count ∧ { t with vint := s.vint } = s) ∧
    ∀ n, n < x.count → (∀ i, i < n → good i) → ¬good n →
      let a := x.base + x.op.size * n
      let bad := ((List.range (x.op.size / 64)).filter fun k => decide (a / 64 + k ∈ s.poison)).length
      ∃ t, exec .transferComplete s = .next t ∧ took t n ∧ { t with vint := s.vint, hdr := s.hdr, trace := s.trace } = s ∧
        LoggedHere (vAt s.hdr 7) (vAt t.hdr 7) 0x96 stBadField
          (BitVec.ofNat 20 (if x.op = .restoreSlots then x.first + n else 16 * (x.first + n))) ∧
        (vAt t.hdr 8).errCnt = satAdd (vAt s.hdr 8).errCnt bad ∧
        (bad ≠ 0 → (vAt t.hdr 8).istat.getLsbD 1 = true ∧ (vAt t.hdr 8).istat.getLsbD 15 = true) ∧
        (∀ p : PageId, p ≠ 7 → p ≠ 8 → CausesGrow (vAt s.hdr p) (vAt t.hdr p)) ∧ TraceGrows s t

/-- R119: clear zeroes the record that UM_TS_SEL names (none with kind = 1 and an index above 63), clear_all every record, and save takes its
snapshot, or is refused with BAD_RANGE or, while one runs, ILLEGAL_STATE (in this order: log 71). R119: the end of a tasting save: the
snapshot's 64 guest records and then its 1,024 slot records, 64 bytes each, and no other byte of scratchpad. R114-R117: which itineraries are
tasted, which tiles are sampled, and what a stored value and an evaluated element add to the record (a stored NaN: log 26). That a sampled tile
counts at its element with i0 a multiple of 64, kept or not, and that out1 is compared too, is the model's reading, log 42; that an infinite
y leaves the record alone, n_clipped too where it goes through overflowed of R77, is its choice, log 101. -/
def Obligations.TastingClearsAndSavesItsRecords : Prop :=
  TasteRule ∧
  (∀ (s : State) (v : Word), s.running = true →
      let ts := s.tasting
      ((Instr.tsClear v).wellFormed = true → (Instr.tsClear v).sole = true → ∃ t, exec (.tsClear v) s = .next t ∧
        (∀ g : GuestId, vAt t.tasting.guests g =
          if ts.selKind = true ∧ ts.selIndex.toNat = g.toNat then .zero else vAt ts.guests g) ∧
        (∀ k, vAt t.tasting.slots k = if ts.selKind = false ∧ ts.selIndex = k then .zero else vAt ts.slots k) ∧
        { t with tasting := { t.tasting with guests := ts.guests, slots := ts.slots } } = s) ∧
      ((Instr.tsClearAll v).wellFormed = true → (Instr.tsClearAll v).sole = true → ∃ t, exec (.tsClearAll v) s = .next t ∧
        (∀ g, vAt t.tasting.guests g = .zero) ∧ (∀ k, vAt t.tasting.slots k = .zero) ∧
        { t with tasting := { t.tasting with guests := ts.guests, slots := ts.slots } } = s) ∧
      ((Instr.tsSave v).wellFormed = true → (Instr.tsSave v).sole = true →
        (ts.saveBase.toNat % 64 = 0 → ts.saveBase.toNat + 69632 ≤ 0x3000000 → ts.save = none → exec (.tsSave v) s =
          .next { s with tasting := { ts with save := some (ts.saveBase.toNat, ts.guests, ts.slots) } }) ∧
        (ts.saveBase.toNat % 64 ≠ 0 ∨ 0x3000000 < ts.saveBase.toNat + 69632 →
          ∃ t, exec (.tsSave v) s = .next t ∧ Logged s t 14 0x97 stBadRange 0) ∧
        (ts.saveBase.toNat % 64 = 0 → ts.saveBase.toNat + 69632 ≤ 0x3000000 → ts.save.isSome = true →
          ∃ t, exec (.tsSave v) s = .next t ∧ Logged s t 14 0x94 stIllegal 0))) ∧
  ∀ (s : State) (b : Nat) (g : Vector Taste (2 ^ 6)) (l : Vector Taste (2 ^ 10)),
    MemInv s → s.tasting.save = some (b, g, l) → s.transfers = true → twinFull s = false → b + 69632 ≤ 0x3000000 →
    ∃ t, exec .tsSaveComplete s = .next t ∧ { t with mem := s.mem, tasting := { t.tasting with save := s.tasting.save } } = s ∧
      t.tasting.save = none ∧ (∀ a, a < b ∨ b + 69632 ≤ a → memByte t.mem a = memByte s.mem a) ∧
      (∀ (k : GuestId) (w : Nat), w < 16 → memWord t.mem (b + 64 * k.toNat + 4 * w) = (vAt g k).words.getD w 0) ∧
      ∀ (k : SlotId) (w : Nat), w < 16 → memWord t.mem (b + 4096 + 64 * k.toNat + 4 * w) = (vAt l k).words.getD w 0

/-! ### Power, health and margins -/

/-- R213, R226-R232: what the IDLE-only registers of pages 11 and 12, UM_PW_PACECAP and UM_HL_CMD take, and that run is refused in a
voltage-margin session. R211, R232: where a session ends with its sprint code still the latest acknowledged one, that code covers the sprint
region no longer, and VDD_U in the region is the protocol event of R211 with its pace, at once: the model's reading of R232's last
sentence, log 89. The states in which clr_low acts, the running ones and FAULT, are the model's choice (no row of Table 11-5 covers it, log
56), and so is that a write of UM_MG_BUNDLE.guard leaves E as it stands until the next VACK of its own code (log 105). -/
def Obligations.HealthAndMarginRegistersTakeTheirFields : Prop :=
  ∀ (s : State) (v : Word),
    (s.unit = .idle →
      exec (.hlUsedWrite v) s = .next { s with health := { s.health with used := v, ledgerOk := true } } ∧
      exec (.hlLifeWrite v) s = .next { s with health := { s.health with
        life := if v.toNat ≤ 0x0E71FF80 then v else 0x0E71FF80#32 } } ∧
      exec (.bundleWrite v) s = .next { s with test := { s.test with guard := v.extractLsb' 0 4, sweepMax := v.extractLsb' 8 4 } } ∧
      let u : State := { s with test := { s.test with vreqCode := v.extractLsb' 0 6, vreqEn := v.getLsbD 8 } }
      let ends : Prop := s.test.vreqEn = true ∧ v.getLsbD 8 = false ∧ 0x19 < s.power.vack.toNat
      (¬ends → exec (.vreqWrite v) s = .next u) ∧
      (ends → s.power.vsprint = false → exec (.vreqWrite v) s = .next { u with power := { s.power with lapsed := true } }) ∧
      (ends → s.power.vsprint = true → ∃ t, exec (.vreqWrite v) s = .next t ∧ Unlicensed s t ∧ t.power.lapsed = true ∧
        { t.power with lapsed := s.power.lapsed, protoPace := s.power.protoPace, protoCause := s.power.protoCause,
                       proto := s.power.proto, eff := s.power.eff } = s.power ∧
        { t with power := s.power, hdr := s.hdr, trace := s.trace } = u)) ∧
    (s.running = true ∨ s.unit = .fault →
      exec (.pacecapWrite v) s = .next { s with power := { s.power with cap := v.extractLsb' 0 16 } } ∧
      ((Instr.clrLow v).wellFormed = true → ∃ t, exec (.clrLow v) s = .next t ∧
        (∀ e : EngineId, vAt t.health.can e = { vAt s.health.can e with low := (vAt s.health.can e).reading }) ∧
        { t with health := { t.health with can := s.health.can } } = s)) ∧
    (s.unit = .idle ∨ s.unit = .drain → s.test.vreqEn = true → (Instr.run v).wellFormed = true → (Instr.run v).sole = true →
      ∃ t, exec (.run v) s = .next t ∧ Logged s t 0 0x81 stIllegal 0x040)

/-- R213, R218, R219: in IDLE a write of UM_PW_SPRUSED or UM_PW_SPRLIM stores its value and judges the clamp: a new clamp sets its cause, ends a
grant and, in the sprint region, applies the revoke pace; one that stays changes nothing more; one that no longer holds is released, and
without one no pace changes. In IDLE SPRINT_REQ is 0 and no grant is in force after either (R214, R215). (That a clamp outside the sprint
region applies no pace is log 27.) -/
def Obligations.AccountWritesJudgeTheClamp : Prop :=
  ∀ (c : Instr) (v used lim : Word) (s : State), s.unit = .idle →
    (c = .sprusedWrite v ∧ used = v ∧ lim = s.power.sprLim) ∨
      (c = .sprlimWrite v ∧ used = s.power.sprUsed ∧ lim = if v.toNat ≤ 0x00A4CB80 then v else 0x00A4CB80#32) →
    ∃ t, exec c s = .next t ∧ t.power.sprUsed = used ∧ t.power.sprLim = lim ∧
      t.power.accountOk = (s.power.accountOk || decide (c = .sprusedWrite v)) ∧
      t.power.clamped = decide (lim.toNat ≤ used.toNat) ∧
      (t.power.clamped = true → s.power.clamped = false → (vAt t.hdr 10).istat.getLsbD 2 = true ∧ t.power.granted = false ∧
        t.power.sprintReq = false ∧ t.power.rvkPace = (s.power.rvkPace || s.power.vsprint) ∧
        t.power.rvkCause = (s.power.rvkCause || s.power.vsprint) ∧ BudgetIs t.power ∧
        (s.power.granted = true → (vAt t.hdr 10).istat.getLsbD 1 = true)) ∧
      (t.power.clamped = true → s.power.clamped = true → t.power.granted = s.power.granted ∧ t.power.sprintReq = s.power.sprintReq ∧
        t.power.rvkPace = s.power.rvkPace ∧ t.power.rvkCause = s.power.rvkCause ∧ t.power.eff = s.power.eff ∧ t.hdr = s.hdr) ∧
      (t.power.clamped = false → t.power.granted = false ∧ t.power.sprintReq = false ∧ t.power.rvkPace = s.power.rvkPace ∧
        t.power.rvkCause = s.power.rvkCause ∧ t.power.eff = s.power.eff ∧
        (s.power.granted = true → (vAt t.hdr 10).istat.getLsbD 1 = true)) ∧
      HeadersGrow s t ∧ TraceGrows s t ∧
      { t.power with sprUsed := s.power.sprUsed, sprLim := s.power.sprLim, accountOk := s.power.accountOk, clamped := s.power.clamped,
                     granted := s.power.granted, sprintReq := s.power.sprintReq, rvkPace := s.power.rvkPace,
                     rvkCause := s.power.rvkCause, eff := s.power.eff } = s.power ∧
      { t with power := s.power, hdr := s.hdr, trace := s.trace } = s

/-- R24, R176, R210, R227, R232: a VTARGET is acknowledged with its own code when it is at or below 0x19, when sprint is granted and not
clamped, or when it is the code of a margin session; the thresholds follow it. Another sprint code is answered 0x3E and a code out of
range 0x3F, also in a margin session (log 57), with no effect; in RESET and CALIBRATE the latest one is held. That an acknowledged VTARGET
ends the lapse which a margin session leaves (R232) is the model's choice, log 89. -/
def Obligations.VtargetIsAcknowledgedRefusedOrHeld : Prop :=
  ∀ (s : State) (c : BitVec 6),
    let inRange : Prop := 7 ≤ c.toNat ∧ c.toNat ≤ 0x2D
    let own : Prop := c.toNat ≤ 0x19 ∨ (s.power.granted = true ∧ s.power.clamped = false) ∨
      (s.test.vreqEn = true ∧ c = s.test.vreqCode)
    let port : Prop := s.unit ≠ .off ∧ s.unit ≠ .reset ∧ s.unit ≠ .calibrate
    (s.unit = .off → exec (.vtarget c) s = .next s) ∧
    (s.unit = .reset ∨ s.unit = .calibrate →
      exec (.vtarget c) s = .next { s with power := { s.power with heldV := some c } }) ∧
    (port → inRange → own → ∃ t, exec (.vtarget c) s = .next t ∧ t.pmOut = s.pmOut ++ [.vack c] ∧
      t.power = { s.power with vack := c, model := c, lapsed := false } ∧
      (∀ e : EngineId, vAt t.health.can e = if s.cellar.loaded = true then
          { vAt s.health.can e with expect := BitVec.ofInt 8 (max 0 (min 255 ((vAt s.health.can e).mcal.toNat + Config.canaryD c -
              Config.canaryD s.power.cCal + 10 * s.test.guard.toNat))) }
        else vAt s.health.can e) ∧
      { t with pmOut := s.pmOut, power := s.power, health := { t.health with can := s.health.can } } = s) ∧
    (port → inRange → ¬own → exec (.vtarget c) s = .next { s with pmOut := s.pmOut ++ [.vack 0x3E] }) ∧
    (port → ¬inRange → exec (.vtarget c) s = .next { s with pmOut := s.pmOut ++ [.vack 0x3F] })

/-- R212, R213: a PACE value is taken by the next window; there the budget is the least of the PACE and cap values, each at least
0x0100, and the paces whose cause still holds, and every engine's count restarts. Before 4,096 ticks no window begins. -/
def Obligations.WindowsTakeTheLeastBudget : Prop :=
  (∀ (s : State) (v : BitVec 16), s.unit ≠ .off → exec (.pace v) s = .next { s with power := { s.power with mgr := v } }) ∧
  ∀ s : State, s.calibrated = true →
    (s.power.windowTicks < 4096 → exec .paceWindow s = .next s) ∧
    (4096 ≤ s.power.windowTicks → ∃ t, exec .paceWindow s = .next t ∧
      t.power.eff.toNat = min (max 0x100 s.power.mgr.toNat) (min (max 0x100 s.power.cap.toNat)
        (min (if s.power.rvkCause then s.power.nombeats.toNat / 2 else 0xFFFF)
          (min (if s.power.protoCause then s.power.nombeats.toNat else 0xFFFF)
            (if s.power.guardOn then s.power.nombeats.toNat / 4 else 0xFFFF)))) ∧
      (∀ e : EngineId, vAt t.engines e = { vAt s.engines e with issued := 0 }) ∧
      { t.power with eff := s.power.eff, winMgr := s.power.winMgr, winCap := s.power.winCap, rvkPace := s.power.rvkPace,
                     protoPace := s.power.protoPace, guardPace := s.power.guardPace, windowTicks := s.power.windowTicks } = s.power ∧
      t.power.rvkPace = s.power.rvkCause ∧ t.power.protoPace = s.power.protoCause ∧ t.power.guardPace = s.power.guardOn ∧
      t.power.windowTicks = 0 ∧ TraceGrows s t ∧ HeadersGrow s t ∧
      { t with power := s.power, engines := s.engines, hdr := s.hdr, trace := s.trace } = s)

/-- R214-R216: a grant counts only while SPRINT_REQ is 1 and none is in force, and is a protocol event otherwise; a revoke ends the
grant, applies the revoke pace, counts, lowers SPRINT_REQ and starts the hold-off, and without a grant does nothing; the end of the
hold-off and of the 4,096 idle ticks leaves SPRINT_REQ as R214 says. That the cause of the revoke pace is the sprint region at the revoke, so
that outside it the next window releases the pace, is the model's reading of R213 and R216, log 27. -/
def Obligations.GrantsRevokesAndTheRequest : Prop :=
  ∀ s : State, s.unit ≠ .off →
    (s.power.sprintReq = true → s.power.granted = false → ∃ t, exec .sprintGrant s = .next t ∧ t.power = { s.power with granted := true } ∧
      (vAt t.hdr 10).istat.getLsbD 0 = true ∧ HeadersGrow s t ∧ TraceGrows s t ∧
      { t with power := s.power, hdr := s.hdr, trace := s.trace } = s) ∧
    (s.power.sprintReq = false ∨ s.power.granted = true → ∃ t, exec .sprintGrant s = .next t ∧
      t.power = { s.power with proto := satAdd s.power.proto 1 } ∧ (vAt t.hdr 10).istat.getLsbD 5 = true ∧ HeadersGrow s t ∧
      { t with power := s.power, hdr := s.hdr } = s) ∧
    (s.power.granted = true → ∃ t, exec .sprintRevoke s = .next t ∧ t.power.granted = false ∧ t.power.sprintReq = false ∧
      t.power.rvkPace = true ∧ t.power.revCnt = satAdd s.power.revCnt 1 ∧ t.power.holdoff = true ∧ t.power.holdTicks = 0 ∧
      t.power.rvkCause = s.power.vsprint ∧ BudgetIs t.power ∧ (vAt t.hdr 10).istat.getLsbD 1 = true ∧ HeadersGrow s t ∧ TraceGrows s t ∧
      { t.power with granted := s.power.granted, sprintReq := s.power.sprintReq, rvkPace := s.power.rvkPace,
                     rvkCause := s.power.rvkCause, revCnt := s.power.revCnt, holdoff := s.power.holdoff,
                     holdTicks := s.power.holdTicks, eff := s.power.eff } = s.power ∧
      { t with power := s.power, hdr := s.hdr, trace := s.trace } = s) ∧
    (s.power.granted = false → exec .sprintRevoke s = .next s) ∧
    (s.power.holdoff = true → 2 ^ 22 ≤ s.power.holdTicks → ∃ t, exec .holdoffEnd s = .next t ∧ t.power.holdoff = false ∧
      (t.power.sprintReq = true ↔ s.power.sprintEn = true ∧ s.power.accountOk = true ∧ s.power.clamped = false ∧
        (s.unit = .run ∨ s.unit = .drain) ∧ (s.power.recent = true ∨ s.inExec ≠ 0)) ∧ HeadersGrow s t ∧ TraceGrows s t ∧
      { t with power := { t.power with holdoff := s.power.holdoff, sprintReq := s.power.sprintReq, granted := s.power.granted },
               hdr := s.hdr, trace := s.trace } = s) ∧
    (s.power.holdoff = false ∨ s.power.holdTicks < 2 ^ 22 → exec .holdoffEnd s = .next s) ∧
    (s.power.recent = true → s.inExec = 0 → 4096 ≤ s.power.idleTicks → ∃ t, exec .sprintIdleTimeout s = .next t ∧
      t.power.recent = false ∧ t.power.sprintReq = false ∧ t.power.granted = false ∧
      (s.power.granted = true → (vAt t.hdr 10).istat.getLsbD 1 = true) ∧ HeadersGrow s t ∧ TraceGrows s t ∧
      { t with power := { t.power with recent := s.power.recent, sprintReq := s.power.sprintReq, granted := s.power.granted },
               hdr := s.hdr, trace := s.trace } = s) ∧
    (s.power.recent = false ∨ s.inExec ≠ 0 ∨ s.power.idleTicks < 4096 → exec .sprintIdleTimeout s = .next s)

/-- R211, R218: VDD_U entering the sprint region without an acknowledged sprint code is a protocol event and applies the protocol pace at once
(a code acknowledged for a margin session that has ended is none: the model's reading of R232, log 89); leaving the region ends the causes of
the revoke and the protocol pace, which stay in force to the next window. Every reading judges the hold of RESET at 0.57 V (R174); which
commands carry a reading is log 83. In RESET and CALIBRATE eff of that pace is formed from the nombeats then in force: the model's choice,
log 94. -/
def Obligations.SupplyReadingsSwitchTheSprintRegion : Prop :=
  ∀ (s : State) (mv : BitVec 10), s.unit ≠ .off →
    let init : Bool := if s.unit = .reset then s.resetN && decide (570 ≤ mv.toNat) else s.initRun
    let uncovered : Prop := s.power.vack.toNat ≤ 0x19 ∨ (s.power.lapsed = true ∧ s.test.vreqEn = false)
    (s.power.vsprint = decide (755 < mv.toNat) → exec (.vsprintChange mv) s = .next { s with vddMv := mv, initRun := init }) ∧
    (s.power.vsprint = false → 755 < mv.toNat → ¬uncovered → ∃ t, exec (.vsprintChange mv) s = .next t ∧
      t.power = { s.power with vsprint := true } ∧ t.vddMv = mv ∧ t.initRun = init ∧
      { t with vddMv := s.vddMv, initRun := s.initRun, power := s.power } = s) ∧
    (s.power.vsprint = false → 755 < mv.toNat → uncovered → ∃ t, exec (.vsprintChange mv) s = .next t ∧
      t.power.vsprint = true ∧ Unlicensed s t ∧
      t.vddMv = mv ∧ t.initRun = init ∧
      { t with vddMv := s.vddMv, initRun := s.initRun, hdr := s.hdr, trace := s.trace, power := { t.power with
        vsprint := s.power.vsprint, protoPace := s.power.protoPace, protoCause := s.power.protoCause, proto := s.power.proto, eff := s.power.eff } } = s) ∧
    (s.power.vsprint = true → mv.toNat ≤ 755 → exec (.vsprintChange mv) s =
      .next { s with vddMv := mv, initRun := init, power := { s.power with vsprint := false, rvkCause := false, protoCause := false } })

/-- R217, R218, R228: a tick adds its weight to the account or the ledger; whole seconds are carried out and the rest stays, so nothing is
lost; the progress counts of R198, UM_TR_TICKS and the ticks of step 3 of CALIBRATE or of a BIST (R175, R177) advance; the reading judges the
hold of RESET (R174, log 83). That LEDGER_TICK carries every timer is log 7; eff of a clamp's pace in RESET and CALIBRATE is log 94. -/
def Obligations.TicksCarryWholeSeconds : Prop :=
  ∀ (s : State) (mv : BitVec 10), s.unit ≠ .off → s.power.osc ≠ 0 →
    let tps := s.power.osc.toNat * 2000000000 / 2 ^ 20
    let ft := if s.power.tj.toNat ≤ 500 then 1 else if s.power.tj.toNat ≤ 540 then 2 else if s.power.tj.toNat ≤ 580 then 4 else 8
    let fv := if mv.toNat < 570 then 1 else if mv.toNat ≤ 650 then 2 else if mv.toNat ≤ 755 then 4 else if mv.toNat ≤ 850 then 8 else 12
    (s.power.vsprint = false → exec .sprintTick s = .next s) ∧
    (s.power.vsprint = true → ∃ t n, exec .sprintTick s = .next t ∧ n * tps + t.power.sprAcc.toNat = s.power.sprAcc.toNat + ft ∧
      t.power.sprAcc.toNat < tps ∧ t.power.sprUsed = satAdd s.power.sprUsed n ∧
      t.power.clamped = decide (s.power.sprLim.toNat ≤ t.power.sprUsed.toNat) ∧ HeadersGrow s t ∧ TraceGrows s t ∧
      (t.power.clamped = true → s.power.clamped = false → (vAt t.hdr 10).istat.getLsbD 2 = true ∧ t.power.granted = false ∧
        t.power.sprintReq = false ∧ t.power.rvkPace = true ∧ t.power.rvkCause = true ∧
        t.power.eff.toNat ≤ s.power.nombeats.toNat / 2) ∧
      (t.power.clamped = s.power.clamped → t.power.rvkPace = s.power.rvkPace ∧ t.power.rvkCause = s.power.rvkCause ∧
        t.power.eff = s.power.eff) ∧
      (t.power.clamped = false → (t.power.sprintReq = true ↔ s.power.sprintEn = true ∧ s.power.accountOk = true ∧
        (s.unit = .run ∨ s.unit = .drain) ∧ (s.power.recent = true ∨ s.inExec ≠ 0) ∧ s.power.holdoff = false) ∧
        (t.power.sprintReq = true → t.power.granted = s.power.granted)) ∧
      { t.power with sprAcc := s.power.sprAcc, sprUsed := s.power.sprUsed, clamped := s.power.clamped, granted := s.power.granted,
                     sprintReq := s.power.sprintReq, rvkPace := s.power.rvkPace, rvkCause := s.power.rvkCause, eff := s.power.eff } = s.power ∧
      { t with power := s.power, hdr := s.hdr, trace := s.trace } = s) ∧
    ∃ t n, exec (.ledgerTick mv) s = .next t ∧ n * (4 * tps) + t.health.acc.toNat = s.health.acc.toNat + fv * ft ∧
      t.health.acc.toNat < 4 * tps ∧ t.health.used = satAdd s.health.used n ∧ t.health.quarters = s.health.quarters + fv * ft ∧
      t.trace.ticks = (if s.unit = .reset then s.trace.ticks else s.trace.ticks + 1) ∧
      (∀ b c, s.ctx b = some c → t.ctx b = some { c with progress :=
        if (s.guest c.guest).limitUs = 0 then 0 else if s.unit = .run ∨ s.unit = .drain then c.progress + 1 else c.progress }) ∧
      (∀ b, s.ctx b = none → t.ctx b = none) ∧
      { t.health with acc := s.health.acc, used := s.health.used, quarters := s.health.quarters, estTicks := s.health.estTicks } =
        s.health ∧ t.health.estTicks = s.health.estTicks + 1 ∧
      t.power.windowTicks = (if s.unit = .reset ∨ s.unit = .calibrate then 0 else s.power.windowTicks + 1) ∧
      t.power.holdTicks = (if s.power.holdoff then s.power.holdTicks + 1 else 0) ∧
      t.power.idleTicks = (if s.inExec = 0 then s.power.idleTicks + 1 else 0) ∧ t.power.sampleT = s.power.sampleT + 1 ∧
      t.power.sampleC = s.power.sampleC + 1 ∧ t.power.sampleI = s.power.sampleI + 1 ∧
      { t.power with windowTicks := s.power.windowTicks, holdTicks := s.power.holdTicks, idleTicks := s.power.idleTicks,
                     sampleT := s.power.sampleT, sampleC := s.power.sampleC, sampleI := s.power.sampleI } = s.power ∧
      t.vddMv = mv ∧ t.initRun = (if s.unit = .reset then s.resetN && decide (570 ≤ mv.toNat) else s.initRun) ∧
      t.upTicks = (if s.unit = .calibrate ∨ s.unit = .bist then s.upTicks + 1 else 0) ∧
      { t with vddMv := s.vddMv, initRun := s.initRun, upTicks := s.upTicks, power := s.power, health := s.health, trace := { t.trace with ticks := s.trace.ticks },
               ctx0 := s.ctx0, ctx1 := s.ctx1 } = s

/-- R213, R220, R221, R229: the temperature sample with hot, TEMP and the guard, which 110 °C applies and a reading below 105 °C releases; the
IEST message, whose code is the estimate in steps of 0.25 A, rounded to nearest and saturated at 0xFF; and the life estimate with LIFE_LOW
and LIFE_END, which UM_HL_REMAIN shows once the ledger has been restored. The model's choices: ledger_ok = 0 wins over USED >= LIFE in the
read, and the LIFE causes are judged on rem as formed (log 53); TEMP and GUARD are set at the crossing (log 49); the estimate comes with the
command in microamperes, and of two codes equally near either is sent (log 99); eff of the guard pace in RESET and CALIBRATE comes of the
nombeats then in force (log 94). -/
def Obligations.SamplesAndEstimatesAreTaken : Prop :=
  ∀ s : State, s.unit ≠ .off →
    (∀ tj : BitVec 10, 1024 ≤ s.power.sampleT → ∃ t, exec (.tempSample tj) s = .next t ∧ t.power.tj = tj ∧
      t.power.hot = decide (s.power.tthr.toNat ≤ tj.toNat) ∧ t.power.sampleT = 0 ∧
      t.power.guardOn = (decide (600 ≤ tj.toNat) || (s.power.guardOn && decide (580 ≤ tj.toNat))) ∧
      BudgetIs t.power ∧ (600 ≤ tj.toNat → s.power.guardOn = false → t.power.guardPace = true ∧
        (vAt t.hdr 10).istat.getLsbD 4 = true) ∧
      (s.power.tj.toNat < s.power.tthr.toNat → s.power.tthr.toNat ≤ tj.toNat → (vAt t.hdr 10).istat.getLsbD 3 = true) ∧
      HeadersGrow s t ∧ TraceGrows s t ∧
      { t with hdr := s.hdr, trace := s.trace, power := { t.power with
        tj := s.power.tj, hot := s.power.hot, guardOn := s.power.guardOn, guardPace := s.power.guardPace, eff := s.power.eff, sampleT := s.power.sampleT } } = s) ∧
    (∀ a : Word, s.calibrated = true → 1024 ≤ s.power.sampleI → ∃ code : BitVec 8,
      (let x := min a.toNat (255 * 250000)
       x ≤ code.toNat * 250000 + 125000 ∧ code.toNat * 250000 ≤ x + 125000) ∧
      exec (.iest a) s = .next { s with power := { s.power with iest := code, sampleI := 0 }, pmOut := s.pmOut ++ [.iest code],
                                        free := s.free + 1 }) ∧
    (2 ^ 24 ≤ s.health.estTicks →
      let h := s.health
      let q : Int := (h.quarters * 64 / 2 ^ 24 : Nat)
      let ravg : BitVec 16 := BitVec.ofInt 16 (h.ravg.toNat + (q - h.ravg.toNat) / 64)
      let left : Nat := (h.life.toNat - h.used.toNat) * 256 / (max ravg.toNat 16 * 3600)
      ∃ t, exec .lifeEstimate s = .next t ∧ t.health.ravg = ravg ∧ t.health.quarters = 0 ∧ t.health.estTicks = 0 ∧
        t.health.remain = BitVec.ofNat 32 (min left 0xFFFFFFFF) ∧
        readReg t 0xB094 = (if h.ledgerOk = false then 0xFFFFFFFF#32 else if h.life.toNat ≤ h.used.toNat then 0#32 else t.health.remain) ∧
        (h.lowThr.toNat < h.remain.toNat → t.health.remain.toNat ≤ h.lowThr.toNat → (vAt t.hdr 11).istat.getLsbD 1 = true) ∧
        (h.remain ≠ 0 → t.health.remain = 0 → (vAt t.hdr 11).istat.getLsbD 2 = true) ∧ HeadersGrow s t ∧
        { t with hdr := s.hdr, health := { t.health with ravg := h.ravg, remain := h.remain, quarters := h.quarters,
                                                         estTicks := h.estTicks } } = s)

/-- R226, R227, R232, R205: a canary sample reports each engine's least margin of its four canaries (their delays: log 80) and warns below W;
two samples in a row below T enter FAULT with CANARY_TRIP in the running states outside a margin session (that the first of them may fall in
a state that cannot trip, and that W takes the offset of the moment, is log 52). Before the tables are loaded a sample is only reported. A
corrected SRAM error is counted; an uncorrectable one is recorded in the first-error register, in CALIBRATE, BIST and FAULT too (counting and
recording there, and that one of the vintage, bitmap and tasting SRAM in BIST is what VINT meets, is the model's reading, log 58), and enters
FAULT with SRAM_ERR from the running states. That entry to FAULT ends a debug step is the model's reading too, log 51. -/
def Obligations.CanariesAndSramErrorsLeadToFault : Prop :=
  (∀ (s : State) (d : Delays) (r : EngineId → Nat), s.unit ≠ .off → s.unit ≠ .reset → 1024 ≤ s.power.sampleC →
    (Instr.canarySample d).wellFormed = true → (∀ e : EngineId, LeastMargin d e.toNat (r e)) →
    let reported (t : State) : Prop := ∀ e : EngineId, (vAt t.health.can e).reading.toNat = r e ∧
      (vAt t.health.can e).low.toNat = min (vAt s.health.can e).low.toNat (r e)
    (s.cellar.loaded = false → ∃ t, exec (.canarySample d) s = .next t ∧ reported t ∧ t.health.warn = 0 ∧
      (∀ e : EngineId, (vAt t.health.can e).belowT = false) ∧ { t with
        power := { t.power with sampleC := s.power.sampleC }, health := { t.health with can := s.health.can, warn := s.health.warn } } = s) ∧
    (s.cellar.loaded = true →
    let below (e : EngineId) : Prop := r e < max ((vAt s.health.can e).expect.toNat / 2) 4
    let trip : Prop := s.running = true ∧ s.test.vreqEn = false ∧ ∃ e : EngineId, (vAt s.health.can e).belowT = true ∧ below e
    ∃ t, exec (.canarySample d) s = .next t ∧ reported t ∧
      (∀ e : EngineId, ((vAt t.health.can e).belowT = true ↔ below e) ∧
        (t.health.warn.getLsbD e.toNat = true ↔ r e < (vAt s.health.can e).expect.toNat - s.health.cwarn.toNat) ∧
        (t.health.lost.getLsbD e.toNat = true ↔ s.health.lost.getLsbD e.toNat = true ∨ (s.test.vreqEn = true ∧ below e))) ∧
      (t.health.warn ≠ 0 → (vAt t.hdr 11).istat.getLsbD 0 = true) ∧
      (trip → FaultKeeps s t 0x21) ∧
      (¬trip → HeadersGrow s t ∧ { t with
        power := { t.power with sampleC := s.power.sampleC }, hdr := s.hdr, health := { t.health with can := s.health.can, warn := s.health.warn, lost := s.health.lost } } = s))) ∧
  ∀ (s : State) (arr : BitVec 2) (idx : BitVec 20),
    (s.unit ≠ .off → s.unit ≠ .reset →
      exec (.sramError false arr idx) s = .next { s with exc := { s.exc with sramCnt := satAdd s.exc.sramCnt 1 } }) ∧
    (s.running = true → ∃ t, exec (.sramError true arr idx) s = .next t ∧ FaultKeeps s t 0x20 ∧ t.exc.sramValid = true ∧
      (s.exc.sramValid = false → t.exc.sramArray = arr ∧ t.exc.sramIndex = idx ∧ (vAt t.hdr 8).istat.getLsbD 3 = true) ∧
      (s.exc.sramValid = true → t.exc.sramArray = s.exc.sramArray ∧ t.exc.sramIndex = s.exc.sramIndex)) ∧
    (s.unit = .calibrate ∨ s.unit = .bist ∨ s.unit = .fault →
      let test := if s.unit = .bist ∧ arr = 3 then { s.test with vintErr := some (s.test.vintErr.getD idx) } else s.test
      (s.exc.sramValid = true → exec (.sramError true arr idx) s = .next { s with test := test }) ∧
      (s.exc.sramValid = false → ∃ t, exec (.sramError true arr idx) s = .next t ∧
        t.exc = { s.exc with sramArray := arr, sramIndex := idx, sramValid := true } ∧ t.test = test ∧
        (vAt t.hdr 8).istat.getLsbD 3 = true ∧ HeadersGrow s t ∧ { t with exc := s.exc, hdr := s.hdr, test := s.test } = s))

/-- R214, R215: whatever the command, a grant never outlives SPRINT_REQ, nor SPRINT_REQ its conditions; and SPRINT_REQ is 1 whenever they all
hold (its 400 ticks are part of the command: log 7). -/
def Obligations.GrantsNeedTheRequest : Prop :=
  (SprintInv State.reset ∧ RequestInv State.reset) ∧
  ∀ s t : State, step s = .next t → (SprintInv s → SprintInv t) ∧ (RequestInv s → RequestInv t)

/-! ### Trace, debug step, twin -/

/-- R254, R256: a queued event is written to entry next, and count and wrapped follow; with stop_full the 128th entry stops recording and
sets TR_FULL. clear zeroes buffer and queue, freeze writes the queue and stops, unfreeze starts again unless a full buffer may not be
overwritten. That events still queued when recording stops stay queued and are written once it goes on is the model's choice, log 98. -/
def Obligations.TraceBufferTakesEventsInOrder : Prop :=
  ∀ s : State, s.unit ≠ .off →
    let full := s.trace.ctrl.getLsbD 1
    (∀ v : Word, (Instr.trClear v).wellFormed = true → (Instr.trClear v).sole = true → exec (.trClear v) s = .next { s with trace :=
      { s.trace with ents := vAll 7 ⟨0, 0, 0, 0⟩, next := 0, count := 0, wrapped := false, stopped := false, queue := [] } }) ∧
    (∀ v : Word, (Instr.trUnfreeze v).wellFormed = true → (Instr.trUnfreeze v).sole = true → exec (.trUnfreeze v) s =
      .next (if s.trace.count = 128 ∧ full = true then s else { s with trace := { s.trace with stopped := false } })) ∧
    (∀ v : Word, (Instr.trFreeze v).wellFormed = true → (Instr.trFreeze v).sole = true → ∃ t, exec (.trFreeze v) s = .next t ∧
      t.trace.stopped = true ∧
      (s.trace.stopped = false → full = false → TraceInv s → s.trace.count ≤ 128 → t.trace.queue = [] ∧
        t.trace.next.toNat = (s.trace.next.toNat + s.trace.queue.length) % 128 ∧
        t.trace.count = min (s.trace.count + s.trace.queue.length) 128 ∧
        (t.trace.wrapped = true ↔ s.trace.wrapped = true ∨ 128 < s.trace.count + s.trace.queue.length) ∧
        ∀ i e, s.trace.queue[i]? = some e → vAt t.trace.ents (s.trace.next + BitVec.ofNat 7 i) = e) ∧
      HeadersGrow s t ∧ { t with hdr := s.hdr, trace := { t.trace with
        stopped := s.trace.stopped, queue := s.trace.queue, next := s.trace.next, count := s.trace.count, wrapped := s.trace.wrapped, ents := s.trace.ents } } = s) ∧
    (∀ e q, s.trace.stopped = false → s.trace.queue = e :: q → s.trace.count ≤ 128 → (full = true → s.trace.count < 128) →
      ∃ t, exec .traceWrite s = .next t ∧ t.trace.queue = q ∧ vAt t.trace.ents s.trace.next = e ∧
        (∀ k, k ≠ s.trace.next → vAt t.trace.ents k = vAt s.trace.ents k) ∧ t.trace.next = s.trace.next + 1 ∧
        t.trace.count = min (s.trace.count + 1) 128 ∧ (t.trace.wrapped = true ↔ s.trace.wrapped = true ∨ s.trace.count = 128) ∧
        t.trace.stopped = (full && decide (s.trace.count = 127)) ∧
        (t.trace.stopped = true → (vAt t.hdr 15).istat.getLsbD 0 = true) ∧ HeadersGrow s t ∧
        { t with hdr := s.hdr, trace := { t.trace with
          stopped := s.trace.stopped, queue := s.trace.queue, next := s.trace.next, count := s.trace.count, wrapped := s.trace.wrapped, ents := s.trace.ents } } = s) ∧
    (s.trace.stopped = true ∨ s.trace.queue = [] → exec .traceWrite s = .next s)

/-- R257: in HOLD a step gives every engine beats further beats (0 counts as 1) for the itineraries in execution, also between two rows and
while one runs (log 81); it ends, with STEP_DONE, when every engine has issued them or has no work left, and not before. R25, R198, R212, R213,
R257: in RUN and DRAIN, and in HOLD while step beats are left, outside a retention stop and within the budget of the window, a beat, a
turnaround and a racking pass of an engine whose phase is theirs complete, whatever the itinerary (its areas lie in the scratchpad, as
Table 2-7 has checked). Racking, an accumulating beat, one of a column walk and a turnaround before a second pass are counted against the
window and the step and restart the progress count, always; any other is so counted too, or waits uncounted at a write FIFO that has no
room for what it writes (R10; O54 says when). That a turnaround and a racking pass are exactly one beat each against the window and the step
is the model's choice, log 76. -/
def Obligations.DebugStepGivesAndCountsBeats : Prop :=
  (∀ (s : State) (e : EngineId) (i : Instr) (c : Ctx),
    let x := vAt s.engines e
    (i = .beat e ∧ (x.phase = .pass1 ∨ x.phase = .pass2 ∨ x.phase = .first ∨ x.phase = .column)) ∨
      (i = .rowTurnaround e ∧ x.phase = .turnaround) ∨ (i = .racking e ∧ x.phase = .racking) →
    s.unit = .run ∨ s.unit = .drain ∨ (s.unit = .hold ∧ s.trace.stepping = true ∧ x.stepLeft ≠ 0) → s.retention = false →
    x.issued < s.power.eff.toNat ∨ (s.power.eff = 0xFFFF ∧ s.power.protoPace = false) →
    s.ctx x.ctx = some c → areasInside c.it = true →
    ∃ t, exec i s = .next t ∧ BeatFrame s t e ∧
      let counted : Prop := (vAt t.engines e).issued = x.issued + 1 ∧
        (vAt t.engines e).stepLeft = (if s.unit = .hold then x.stepLeft - 1 else x.stepLeft) ∧ (vAt t.engines e).shown = x.phase ∧
        ∀ d, t.ctx x.ctx = some d → d.progress = 0
      (x.phase = .racking ∨ x.phase = .column ∨ isScan c x.phase = true ∨
        (x.phase = .turnaround ∧ isCol c.it = false ∧ hasPass2 c.it = true) → counted) ∧
      (counted ∨ (vAt t.engines e = { x with shown := x.phase, waiting := true } ∧ t.wfifo = s.wfifo))) ∧
  ∀ s : State, s.unit = .hold →
    (∀ v : Word, (Instr.step v).wellFormed = true →
      let n : BitVec 16 := if v.extractLsb' 0 16 = 0 then 1 else v.extractLsb' 0 16
      ∃ t, exec (.step v) s = .next t ∧
        t.trace = { s.trace with stepping := true, stepReq := n, dbgBeats := v.extractLsb' 0 16 } ∧
        (∀ e, vAt t.engines e = { vAt s.engines e with stepLeft := if s.inExec = 0 then 0 else n }) ∧
        { t with trace := s.trace, engines := s.engines } = s) ∧
    (∀ e : EngineId, stepSpent s e = true ↔ (vAt s.engines e).stepLeft = 0 ∨
      (vAt s.engines e).phase = .none ∧ takeRow s e = none) ∧
    (s.trace.stepping = true → (∀ e, stepSpent s e = true) → ∃ t, exec .stepEnd s = .next t ∧ t.trace.stepping = false ∧
      (vAt t.hdr 15).istat.getLsbD 2 = true ∧ (∀ e, vAt t.engines e = { vAt s.engines e with stepLeft := 0 }) ∧ HeadersGrow s t ∧
      TraceGrows s { t with trace := { t.trace with stepping := s.trace.stepping } } ∧
      { t with trace := s.trace, engines := s.engines, hdr := s.hdr } = s) ∧
    (s.trace.stepping = false ∨ (∃ e, stepSpent s e = false) → exec .stepEnd s = .next s)

/-- R234, R238, R239: UM_TW_CTRL is written in IDLE, unless enable would find another guest attached; activation restarts the sequence numbers;
leaving clears enable and active, counts the uncompared hashes, drops the partner's messages and sets LOST, and UM_TW_SEQ, the pending counts
and the hash registers read 0 from then on. The model's choices: activation only in the running states (log 90), and that clearing enable
while twin mode is active leaves it here too, with LOST (log 35). -/
def Obligations.TwinModeIsEnteredAndLeft : Prop :=
  ∀ s : State,
    (∀ v : Word, s.unit = .idle → (s.twin.active = true → v.getLsbD 0 = true) →
      let other : Prop := ∃ k : GuestId, k ≠ v.extractLsb' 8 6 ∧ (s.guest k).state ≠ .detached
      (v.getLsbD 0 = false ∨ ¬other → exec (.twCtrlWrite v) s = .next { s with twin :=
        { s.twin with enable := v.getLsbD 0, guest := v.extractLsb' 8 6, onMismatch := v.getLsbD 16 } }) ∧
      (v.getLsbD 0 = true → other → ∃ t, exec (.twCtrlWrite v) s = .next t ∧ Logged s t 13 0x81 stIllegal 0x040)) ∧
    (∀ v : Word, s.unit = .idle → s.twin.active = true → v.getLsbD 0 = false → ∃ t, exec (.twCtrlWrite v) s = .next t ∧
      TwinLeft { s with twin := { s.twin with guest := v.extractLsb' 8 6, onMismatch := v.getLsbD 16 } } t s.twin.own.length ∧
      (vAt t.hdr 13).istat.getLsbD 2 = true ∧ HeadersGrow s t ∧ { t with hdr := s.hdr, twin := s.twin } = s) ∧
    (s.running = true → s.twin.enable = true → s.twin.active = false → exec .twinActivate s = .next { s with twin :=
      { s.twin with active := true, nextTx := 0, nextCmp := 0, own := [], part := [], stream := [], hash := 0, hashHi := 0 } }) ∧
    (s.running = false ∨ s.twin.enable = false ∨ s.twin.active = true → exec .twinActivate s = .next s) ∧
    (s.twin.active = true → ∃ t, exec .twinLeave s = .next t ∧ TwinLeft s t s.twin.own.length ∧
      (vAt t.hdr 13).istat.getLsbD 2 = true ∧ HeadersGrow s t ∧ { t with hdr := s.hdr, twin := s.twin } = s) ∧
    (s.twin.active = false → exec .twinLeave s = .next s)

/-- R27, R236, R237: a full chunk's hash is sent with the next sequence number and awaits its partner, or is compared at once with a message
already held; a partner's hash of the same number retires the oldest own one, equal or not; a different hash raises TWIN_MISMATCH and may
enter HOLD; a different number sets SEQ and leaves twin mode, with the own number in the SEQ event (log 36). R255: the TWIN events. All of
it while active is 1, whatever the unit state (R10, R237); that a chunk is sent in BIST and FAULT too is the model's choice, log 97. -/
def Obligations.TwinHashesAreComparedInOrder : Prop :=
  ∀ s : State, s.twin.active = true →
    (4096 ≤ s.twin.stream.length → s.twin.own.length < 64 → s.twin.part = [] →
      let h := chunkHash (s.twin.stream.take 4096)
      exec .twinChunkSend s = .next { s with twinOut := s.twinOut ++ [(s.twin.nextTx, h)], twin := { s.twin with
        stream := s.twin.stream.drop 4096, nextTx := s.twin.nextTx + 1, own := s.twin.own ++ [(s.twin.nextTx, h)] } }) ∧
    (s.twin.stream.length < 4096 ∨ 64 ≤ s.twin.own.length → exec .twinChunkSend s = .next s) ∧
    (∀ p k rest, 4096 ≤ s.twin.stream.length → s.twin.own = [] → s.twin.part = (p, k) :: rest →
      let h := chunkHash (s.twin.stream.take 4096)
      let q := s.twin.nextTx
      let u : State := { s with twinOut := s.twinOut ++ [(q, h)], twin := { s.twin with
        stream := s.twin.stream.drop 4096, nextTx := q + 1, own := [], part := rest, nextCmp := q + 1, hash := h } }
      (p = q → h = k → exec .twinChunkSend s = .next u) ∧
      (p = q → h ≠ k → ∃ t, exec .twinChunkSend s = .next t ∧ Mismatched u t q) ∧
      (p ≠ q → ∃ t, exec .twinChunkSend s = .next t ∧ t.twinOut = s.twinOut ++ [(q, h)] ∧ TwinLeft s t 1 ∧ (vAt t.hdr 13).istat.getLsbD 1 = true ∧
        (vAt t.hdr 13).istat.getLsbD 2 = (vAt s.hdr 13).istat.getLsbD 2 ∧ HeadersGrow s t ∧
        Traced s t s.trace.ctrl 5 (trEntry s 0x29 3 0 (q.zeroExtend 32) 2) ∧
        { t with twinOut := s.twinOut, hdr := s.hdr, trace := s.trace, twin := s.twin } = s)) ∧
    ∀ (q : BitVec 16) (h : BitVec 64),
      (s.twin.part.length < 64 → s.twin.own = [] →
        exec (.twinMessage q h) s = .next { s with twin := { s.twin with part := s.twin.part ++ [(q, h)] } }) ∧
      (∀ p k rest, s.twin.own = (p, k) :: rest → s.twin.part = [] →
        (q = p → h = k → exec (.twinMessage q h) s = .next { s with twin :=
          { s.twin with own := rest, nextCmp := q + 1, hash := h } }) ∧
        (q = p → h ≠ k → ∃ t, exec (.twinMessage q h) s = .next t ∧
          Mismatched { s with twin := { s.twin with own := rest, nextCmp := q + 1, hash := k } } t q) ∧
        (q ≠ p → ∃ t, exec (.twinMessage q h) s = .next t ∧ TwinLeft s t (rest.length + 1) ∧ (vAt t.hdr 13).istat.getLsbD 1 = true ∧
          (vAt t.hdr 13).istat.getLsbD 2 = (vAt s.hdr 13).istat.getLsbD 2 ∧ HeadersGrow s t ∧ TraceGrows s t ∧
          { t with hdr := s.hdr, trace := s.trace, twin := s.twin } = s))

/-! ### Execution -/

/-- R29, R42, R47, R49, R50, R180, R234: there is room while at most one itinerary is in execution, and that one has dispatched its last row
and is no first evaluation. In RUN with room, the guest selected has the 128 bytes of its next entry read once; a guest that
discards has that entry completed unread, with DETACHED and 0x50, for a credit (only here: log 65); otherwise nothing is fetched. R18, R19:
segments of the entry that are poisoned mark the record and are logged on page 8. A record already read is not read again. -/
def Obligations.ArbitrationFetchesTheSelectedGuest : Prop :=
  ∀ (s : State) (g : GuestId) (c : BitVec 4),
    (hasRoom s = true ↔ s.inExec ≤ 1 ∧ ∀ b x, s.ctx b = some x → x.storing = true ∧ x.nextRow = workUnits x.it) ∧
    (s.unit ≠ .run ∨ (s.twin.enable = true ∧ s.twin.active = false) ∨ hasRoom s = false ∨ s.cur ≠ none →
      exec .itineraryFetch s = .next s) ∧
    ((∀ k : GuestId, (s.guest k).state = .active ∨ (s.guest k).state = .draining → (s.guest k).started = (s.guest k).tail) →
      exec .itineraryFetch s = .next s) ∧
    (s.unit = .run → (s.twin.enable = true → s.twin.active = true) → hasRoom s = true → s.cur = none → Selects s g c →
      let x := s.guest g
      let a := x.base.toNat + x.started.toNat % 2 ^ x.log2Size.toNat * 128
      (x.discard = false → x.record = none → a + 128 ≤ 0x3000000 → a / 64 ∉ s.poison → a / 64 + 1 ∉ s.poison →
        ∃ t, exec .itineraryFetch s = .next t ∧
          t.guest g = { x with record := some ⟨BitVec.ofNat 1024 (memNat s.mem a 128), false⟩ } ∧
          (∀ k, k ≠ g → t.guest k = s.guest k) ∧ t.cur = some g ∧ t.arbPtr = g ∧ t.arbCredit = c ∧
          { t with cur := s.cur, arbPtr := s.arbPtr, arbCredit := s.arbCredit, guests := s.guests } = s) ∧
      (x.discard = false → x.record = none → a + 128 ≤ 0x3000000 → a / 64 ∈ s.poison ∨ a / 64 + 1 ∈ s.poison →
        ∃ t, exec .itineraryFetch s = .next t ∧
          t.guest g = { x with record := some ⟨BitVec.ofNat 1024 (memNat s.mem a 128), true⟩ } ∧
          (∀ k, k ≠ g → t.guest k = s.guest k) ∧ t.cur = some g ∧ t.arbPtr = g ∧ t.arbCredit = c ∧
          (vAt t.hdr 8).errCnt = satAdd (vAt s.hdr 8).errCnt (if a / 64 ∈ s.poison ∧ a / 64 + 1 ∈ s.poison then 2 else 1) ∧
          (vAt t.hdr 8).istat.getLsbD 1 = true ∧ (vAt t.hdr 8).istat.getLsbD 15 = true ∧
          (∀ p : PageId, p ≠ 8 → CausesGrow (vAt s.hdr p) (vAt t.hdr p)) ∧ TraceGrows s t ∧
          { t with cur := s.cur, arbPtr := s.arbPtr, arbCredit := s.arbCredit, guests := s.guests, hdr := s.hdr, trace := s.trace } = s) ∧
      (x.discard = false → x.record.isSome = true → a + 128 ≤ 0x3000000 →
        exec .itineraryFetch s = .next { s with cur := some g, arbPtr := g, arbCredit := c }) ∧
      (x.discard = true → ∃ t e, exec .itineraryFetch s = .next t ∧ t.entries = s.entries ++ [e] ∧ e.guest = g ∧ e.index = x.started ∧
        e.status = stDetached ∧ e.reason = 0x50 ∧ e.intr = false ∧ e.summIntr = false ∧ e.stopover = false ∧ e.ctx = none ∧
        e.pin = none ∧ t.guest g = { x with started := x.started + 1, record := none } ∧ (∀ k, k ≠ g → t.guest k = s.guest k) ∧
        t.arbPtr = g ∧ t.arbCredit = c - 1 ∧ t.cur = none ∧
        { t with entries := s.entries, guests := s.guests, arbPtr := s.arbPtr, arbCredit := s.arbCredit, cur := s.cur,
                 free := s.free } = s))

/-- R40, R49, R50, R51: a selected itinerary whose segments were poisoned, or that fails a check, is rejected with status and reason, logged on
page 1, for a credit; it writes nothing, forms no context and touches no slot, and takes INTR and STOPOVER from its record except under 0x0F.
R40: the status and reason are those of the first row of Table 2-7 whose condition the record meets (0x08 where a class without a blend names
an empty user slot, 0x05 of a stride in column mode, 0x05 by the row rule where axis = 1 stands with another class, 0x03 or 0x06 of a PERM
mask, and the areas of 0x23 are the model's readings, logs 15, 21, 92, 23 and 20). One that R50 holds back waits (when it is judged: log 13):
one with an area that shares a byte with what an entry writes that has started and not completed, or with such an entry's slot (R104). -/
def Obligations.RejectedItinerariesTouchNothing : Prop :=
  (∀ (s : State) (r : Record),
    (∀ (st : BitVec 3) (rs : BitVec 8), checkItinerary s r = some (st, rs) ↔
      ∃ k, table27[k]? = some (rs.toNat, st) ∧ Fails s r rs.toNat ∧
        ∀ (j : Nat) (x : Nat × BitVec 3), j < k → table27[j]? = some x → ¬Fails s r x.1) ∧
    (checkItinerary s r = none ↔ ∀ x ∈ table27, ¬Fails s r x.1) ∧
    (heldBack s r = true ↔ ∃ e ∈ s.entries, WaitsFor r e)) ∧
  ∀ (s : State) (g : GuestId) (f : Fetched),
    s.unit = .run → (s.twin.enable = true → s.twin.active = true) → hasRoom s = true → s.cur = some g →
    (s.guest g).state = .active ∨ (s.guest g).state = .draining → (s.guest g).started ≠ (s.guest g).tail →
    (s.guest g).discard = false → (s.guest g).record = some f →
    (f.poisoned = false → heldBack s f.bytes = true → exec .itineraryCheck s = .next s) ∧
    ∀ (st : BitVec 3) (rs : BitVec 8),
      (f.poisoned = true ∧ st = stBadField ∧ rs = 0x0F) ∨
        (f.poisoned = false ∧ heldBack s f.bytes = false ∧ checkItinerary s f.bytes = some (st, rs)) →
      ∃ t e, exec .itineraryCheck s = .next t ∧ t.entries = s.entries ++ [e] ∧ e.guest = g ∧ e.index = (s.guest g).started ∧
        e.status = st ∧ e.reason = rs ∧ e.ctx = none ∧ e.pin = none ∧ e.summIntr = false ∧
        (rs = 0x0F → e.intr = false ∧ e.stopover = false) ∧
        (rs ≠ 0x0F → e.intr = rIntr f.bytes ∧ e.stopover = rStopover f.bytes) ∧
        t.guest g = { s.guest g with started := (s.guest g).started + 1, record := none } ∧
        (∀ k, k ≠ g → t.guest k = s.guest k) ∧ t.arbCredit = s.arbCredit - 1 ∧ t.cur = none ∧
        Logged s { t with entries := s.entries, guests := s.guests, arbCredit := s.arbCredit, cur := s.cur, free := s.free } 1 rs st
          (BitVec.ofNat 20 (g.toNat * 2 ^ 14 + (s.guest g).started.toNat % 2 ^ 14))

/-- R50, R104, R108, R109, R183, R188, R251, R255: an itinerary that passes takes the free context with the base values, the active banks and
the generation of that instant and its slot as it stands, pins the slot, and advances the started index for a credit. Under an overlay the
context registers take the overlay's writes in list order, a later entry overriding an earlier one. It stores in its only evaluation, or
evaluates first for block scales along d1 or an EMPTY slot under COLD_JIT; the START event is governed by its UM_TR_CTRL. UM_VS_COLDRD counts
one that reads an EMPTY slot as a VINTAGE input; UM_GS_EXEC and UM_GS_EXIDX of its context describe it, and those of the other context stay.
R214: an itinerary is in execution, so SPRINT_REQ is 1 where the other conditions hold. -/
def Obligations.PassedItinerariesFormTheirContext : Prop :=
  ∀ (s : State) (g : GuestId) (r : Record),
    s.unit = .run → (s.twin.enable = true → s.twin.active = true) → hasRoom s = true → s.cur = some g →
    (s.guest g).state = .active ∨ (s.guest g).state = .draining → (s.guest g).started ≠ (s.guest g).tail →
    (s.guest g).discard = false → (s.guest g).record = some ⟨r, false⟩ → heldBack s r = false → checkItinerary s r = none →
    ∃ t e c, exec .itineraryCheck s = .next t ∧ t.entries = s.entries ++ [e] ∧ e.guest = g ∧ e.index = (s.guest g).started ∧
      e.status = stOk ∧ e.ctx = some s.ctx0.isSome ∧ (e.pin = if rVslotEn r then some (rVslot r) else none) ∧
      t.ctx s.ctx0.isSome = some c ∧ t.ctx (!s.ctx0.isSome) = s.ctx (!s.ctx0.isSome) ∧
      c.it = r ∧ c.guest = g ∧ c.index = (s.guest g).started ∧ c.gen = s.cellar.gen ∧ c.bankBlend = s.cellar.actBlend ∧
      c.bankDq8 = s.cellar.actDq8 ∧ c.bankDq4 = s.cellar.actDq4 ∧ c.vRead = recVRead (vAt s.vint.slots (rVslot r)) ∧
      c.policy = recPolicy (vAt s.vint.slots (rVslot r)) ∧ c.tally = .zero ∧ c.progress = 0 ∧ c.nextRow = 0 ∧
      (rOverlay r = 0 → c.smCfg = s.smCfg ∧ c.tsCtrl = s.tasting.ctrl ∧ c.tsConvThr = s.tasting.convThr ∧
        c.tsFnThr = s.tasting.fnThr ∧ c.trCtrl = s.trace.ctrl) ∧
      (rOverlay r ≠ 0 →
        let o := vAt s.overlays (BitVec.ofNat 3 (rOverlay r - 1))
        OverlayGives o 0x9040 s.smCfg c.smCfg ∧ OverlayGives o 0xE040 s.tasting.ctrl c.tsCtrl ∧
        OverlayGives o 0xE044 s.tasting.convThr c.tsConvThr ∧ OverlayGives o 0xE048 s.tasting.fnThr c.tsFnThr ∧
        OverlayGives o 0xF040 s.trace.ctrl c.trCtrl) ∧
      c.slotEmpty = recEmpty (vAt s.vint.slots (rVslot r)) ∧
      c.vOut = (if recEmpty (vAt s.vint.slots (rVslot r)) then (recPolicy (vAt s.vint.slots (rVslot r))).extractLsb' 16 8
        else recVWrite (vAt s.vint.slots (rVslot r))) ∧
      c.bitmap = vAt s.vint.maps ((rVslot r).extractLsb' 4 6) ∧
      c.taken = [] ∧ c.before = [] ∧ c.covered = [] ∧ c.wrote = [] ∧ c.saved = [] ∧ c.noted = [] ∧ c.cap = none ∧ c.nonfin = 0 ∧
      c.preCap = none ∧ c.taste = .zero ∧ c.rowMax = none ∧ c.rowsDone = 0 ∧
      (c.storing = false ↔ (c.slotEmpty = true ∧ c.policy.extractLsb' 12 2 = 0 ∧ VintageOutput c) ∨
        ∃ o : Opd, o.isOut = true ∧ rHas r o = true ∧ (dScale (rDesc r o) = 2 ∨ dScale (rDesc r o) = 3) ∧ dBlockDir (rDesc r o) = true) ∧
      e.gov = some (c.trCtrl, s.ctx0.isSome) ∧ e.cls = r.extractLsb' 0 4 ∧
      TracedFirst s t c.trCtrl 0 (trEntry s 0x01 (if s.ctx0.isSome then 1 else 0) g.toNat
        (BitVec.ofNat 32 (e.index.toNat + e.cls.toNat * 2 ^ 16 + rOverlay r * 2 ^ 20)) s.cellar.gen) ∧
      t.guest g = { s.guest g with started := (s.guest g).started + 1, record := none } ∧ (∀ k, k ≠ g → t.guest k = s.guest k) ∧
      t.arbCredit = s.arbCredit - 1 ∧ t.cur = none ∧ t.inExec = s.inExec + 1 ∧
      (let cold : Prop := c.slotEmpty = true ∧ ∃ o : Opd, o.isOut = false ∧ rHas r o = true ∧ dScale (rDesc r o) = 1
       (cold → t.vint.coldrd = satAdd s.vint.coldrd 1) ∧ (¬cold → t.vint.coldrd = s.vint.coldrd)) ∧
      (let word : Nat := 1 + rOverlay r * 2 ^ 4 + g.toNat * 2 ^ 8 + (r.extractLsb' 0 4).toNat * 2 ^ 16 + c.gen.toNat % 256 * 2 ^ 20
       if s.ctx0.isSome then t.exec1.toNat = word ∧ t.exIdx1 = c.index ∧ t.exec0 = s.exec0 ∧ t.exIdx0 = s.exIdx0
       else t.exec0.toNat = word ∧ t.exIdx0 = c.index ∧ t.exec1 = s.exec1 ∧ t.exIdx1 = s.exIdx1) ∧
      { t.vint with coldrd := s.vint.coldrd } = s.vint ∧ HeadersGrow s t ∧ TraceGrows s t ∧
      t.power.recent = true ∧ t.power.idleTicks = 0 ∧ RequestJudged s t ∧
      { t.power with recent := s.power.recent, idleTicks := s.power.idleTicks, sprintReq := s.power.sprintReq,
                     granted := s.power.granted } = s.power ∧
      { t with entries := s.entries, ctx0 := s.ctx0, ctx1 := s.ctx1, guests := s.guests, arbCredit := s.arbCredit, cur := s.cur,
               vint := s.vint, hdr := s.hdr, trace := s.trace, power := s.power, exec0 := s.exec0, exec1 := s.exec1,
               exIdx0 := s.exIdx0, exIdx1 := s.exIdx1 } = s

/-- R13, R52-R54, R212, R224, R257: a beat, a turnaround and a racking pass change only the engine, its itinerary's working state,
the write FIFO (never beyond its 64 units, R10) and the beat counter; no memory, guest, flag or slot changes before the
completion. An engine issues nothing outside RUN, DRAIN and a step, in a retention stop, or with its window's budget spent (0xFFFF is no
limit). R142, R162, R212: the turnaround of a row with a second pass computes its row constants and starts that pass, that of any other row
or column unit its results; racking adds the kept finite terms anew against the known maximum; each restarts the itinerary's progress count.
What a BEAT computes: R36, R53, R54, R62 the row taken and its slices; R39, R169 the mask; R55, R123 the lane's arithmetic; R84, R85 rounding;
R73, R76, R77 codes read and stored; R97-R99 block scales; R123-R126 the function core; R54, R66, R129-R131 the blends; R101 conversion;
R138-R147 sums and maxima, R150-R156 the normalisation classes, R160-R168 SMAX, LSE and XENT, R70 PERM, R72 GATE; R105, R108 captures and the
COLD_JIT pre-pass. The model's choices and readings among them: a racking pass and a turnaround are one beat, and the last beat of a slice
computes (log 76); what decides within a bound (log 39); the words and results of the built-in images (logs 16 and 17), a NaN under a K that
raises (log 18); SMAX terms below 2^-4096 (log 25); a poisoned mask bit of an ignored row (log 40), the sign of a zero gradient (log 42); rstd
times a zero covariance, the signs of zero differences and an infinite mean (logs 41, 72 and 73); PERM out of range (log 66); subnormal BF16
(log 67); reads noted as they are made (log 79); a special result of a blend raises each of its flags once (log 100); RSQRT, RCP and LN run
with K = 0 (log 102); A = 0 in a block without a finite value (log 104); phases 1 and 2 in a first evaluation too (log 108). -/
def Obligations.BeatsServeTheirRowAlone : Prop :=
  (∀ (s : State) (e : EngineId) (i : Instr), i = .beat e ∨ i = .rowTurnaround e ∨ i = .racking e →
      (∀ b c, s.ctx b = some c → areasInside c.it = true) →
      ∃ t, exec i s = .next t ∧ BeatFrame s t e ∧ (FifoInv s → FifoInv t) ∧
        (s.retention = true ∨ (s.power.eff.toNat ≤ (vAt s.engines e).issued ∧ s.power.eff ≠ 0xFFFF) ∨
          (s.unit ≠ .run ∧ s.unit ≠ .drain ∧ (s.unit = .hold → s.trace.stepping = false ∨ (vAt s.engines e).stepLeft = 0)) → t = s)) ∧
  (∀ (s : State) (e : EngineId) (c : Ctx),
    let x := vAt s.engines e
    canBeat s e = true → s.ctx x.ctx = some c → areasInside c.it = true →
    (x.phase = .turnaround → isCol c.it = false → hasPass2 c.it = true → c.storing = true →
      ∃ t, exec (.rowTurnaround e) s = .next t ∧ (vAt t.engines e).phase = .pass2 ∧ (vAt t.engines e).pos = 0 ∧
        (vAt t.engines e).acc = rowTurn c x.acc (rowIdx c.it x.row) ∧ (vAt t.engines e).issued = x.issued + 1 ∧
        t.ctx x.ctx = some { c with progress := 0 } ∧ t.wfifo = s.wfifo) ∧
    (x.phase = .racking →
      ∃ t, exec (.racking e) s = .next t ∧ (vAt t.engines e).phase = .turnaround ∧
        (vAt t.engines e).acc.k0 = (List.range (rD0 c.it)).foldl (fun k i0 =>
          rackElem s c (x.acc.mRun.getD 0) k { rowIdx c.it x.row with i0 := i0 }) Cask.clear ∧
        (vAt t.engines e).issued = x.issued + 1 ∧ t.ctx x.ctx = some { c with progress := 0 } ∧ t.wfifo = s.wfifo)) ∧
  (∀ (s : State) (e : EngineId), BeatWork s e ∧ TurnaroundWork s e ∧ TakesNextRow s e) ∧
  MaskRule ∧ LaneRule ∧ RoundRule ∧ StoreRule ∧ ScaleRule ∧ CoreRule ∧ BlendRule ∧ WriteRule ∧
  SumRule ∧ ScanRule ∧ SmaxSumRule ∧ TurnRule ∧ SmaxTurnRule ∧ PresentRule ∧ CaptureRule

/-- R143: the read-out of a cask with no downward scale depends only on the multiset of the terms added: values, products, their
infinities, NaNs and signed zeros, in whatever order. -/
def Obligations.CaskReadOutIgnoresTheOrder : Prop :=
  let add (k : Cask) (t : Word × Option Word) : Cask :=
    match t.2 with
    | none => k.addValue t.1
    | some y => k.addProduct t.1 y
  ∀ l m : List (Word × Option Word), l.Perm m →
    (l.foldl add Cask.clear).value = (m.foldl add Cask.clear).value ∧
    (l.foldl add Cask.clear).flags = (m.foldl add Cask.clear).flags

/-- R6, R13, R14, R15, R19, R27, R41, R198: the oldest write unit is accepted: each bit that it names takes its last value there, every byte
outside its 8-byte groups stays, and its itinerary's progress count restarts. Table 1-9: in a group of a poisoned segment every other bit
becomes 0, in gaps and beside the itinerary's areas too, but those that its earlier units have written and, beside its areas, those of a group
that a unit has merged since the mark, where no old bit is left (`merged` records them; both exceptions, and either fill: log 19); in any
other group the bit stays. What either itinerary in execution reads stays as it was before the write (log 79); a twin FIFO that is full stops
the port. -/
def Obligations.AcceptedUnitsWriteTheirBytes : Prop :=
  ∀ (s : State) (u : WUnit) (rest : List WUnit), s.wfifo = u :: rest →
    (twinFull s = true → exec .writeAccept s = .next s) ∧
    (twinFull s = false → (∀ w ∈ u.bytes, w.1 < 0x3000000) → ∃ t, exec .writeAccept s = .next t ∧ t.wfifo = rest ∧
      (∀ a, (∀ w ∈ u.bytes, w.1 / 8 ≠ a / 8) → memByte t.mem a = memByte s.mem a) ∧
      (MemInv s → ∀ a k, k < 8 →
        let names (w : Nat × Byte × Byte) : Prop := w.1 = a ∧ w.2.1.getLsbD k = true
        let earlier : Prop := ∃ c, s.ctx u.ctx = some c ∧ ∃ w ∈ c.covered, names w
        let beside : Prop := ∀ c, s.ctx u.ctx = some c → ∀ x ∈ outAreas c.it, ¬(x.lo ≤ a ∧ a < x.hi)
        let zeroed : Prop := a / 64 ∈ s.poison ∧ (∃ w ∈ u.bytes, w.1 / 8 = a / 8) ∧ ¬earlier ∧ (a / 8 ∈ s.merged → ¬beside)
        let now := (memByte t.mem a).getLsbD k
        (∀ l w r, u.bytes = l ++ w :: r → names w → (∀ x ∈ r, ¬names x) → now = w.2.2.getLsbD k) ∧
        ((∀ w ∈ u.bytes, ¬names w) → (zeroed → now = false) ∧ (¬zeroed → now = (memByte s.mem a).getLsbD k))) ∧
      (∀ g, g ∈ t.merged ↔ g ∈ s.merged ∨ g / 8 ∈ s.poison ∧ ∃ w ∈ u.bytes, w.1 / 8 = g) ∧
      (∀ b, b ≠ u.ctx → ReadsStay s t b) ∧
      (∀ c, s.ctx u.ctx = some c → ∃ d, t.ctx u.ctx = some d ∧ d.progress = 0 ∧ d.covered = u.bytes ++ c.covered ∧
        { d with progress := c.progress, before := c.before, covered := c.covered } = c ∧
        (MemInv s → ∀ a, memByte (readView t d) a = memByte (readView s c) a)) ∧
      (s.ctx u.ctx = none → t.ctx u.ctx = none) ∧
      { t with mem := s.mem, merged := s.merged, wfifo := s.wfifo, ctx0 := s.ctx0, ctx1 := s.ctx1 } = s)

/-- R18, R19, R198: in the running states, and in a requested BIST whose tests wait for a restore (R233, log 6), a line that returns leaves its
segments' poison marks, logs each poisoned one on page 8 with ISTAT.POISON, and restarts the progress count of an itinerary that reads bytes
of it; a segment that returns without the mark has no group merged under it (log 19); no byte of memory and no other segment's mark changes.
In any other state the unit reads nothing and a line is none of its own (R177). (That one line's return is one read is log 6; that a line in
the read areas of both itineraries is a read for both is log 43.) -/
def Obligations.ReadReturnsMarkAndLogPoison : Prop :=
  ∀ (s : State) (line : BitVec 17) (mask : BitVec 8), (Instr.readReturn line mask).wellFormed = true →
    let reading : Prop := s.running = true ∨ (s.unit = .bist ∧ s.test.requested = true ∧
      ∃ x, s.vint.xfer = some x ∧ (x.op = .restoreSlots ∨ x.op = .restoreMaps))
    (¬reading → exec (.readReturn line mask) s = .next s) ∧
    (reading → ∃ t, exec (.readReturn line mask) s = .next t ∧
      (∀ k, k < 8 → (8 * line.toNat + k ∈ t.poison ↔ mask.getLsbD k = true)) ∧
      (∀ g, g / 8 ≠ line.toNat → (g ∈ t.poison ↔ g ∈ s.poison)) ∧
      (∀ g, g ∈ t.merged ↔ g ∈ s.merged ∧ (g / 64 = line.toNat → mask.getLsbD (g / 8 % 8) = true)) ∧
      (vAt t.hdr 8).errCnt = satAdd (vAt s.hdr 8).errCnt ((List.range 8).filter mask.getLsbD).length ∧
      (mask ≠ 0 → (vAt t.hdr 8).istat.getLsbD 1 = true ∧ (vAt t.hdr 8).istat.getLsbD 15 = true ∧ (vAt t.hdr 8).errValid = true) ∧
      (∀ p : PageId, p ≠ 8 → CausesGrow (vAt s.hdr p) (vAt t.hdr p)) ∧ TraceGrows s t ∧
      (∀ b, s.ctx b = none → t.ctx b = none) ∧
      (∀ b c, s.ctx b = some c →
        let areas := opdAreas c.it .in0 ++ opdAreas c.it .in1 ++ opdAreas c.it .in2 ++
          (if rFillZero c.it = true then [] else opdAreas c.it .out0 ++ opdAreas c.it .out1)
        let reads : Prop := ∃ x ∈ areas, x.lo < x.hi ∧ 512 * line.toNat < x.hi ∧ x.lo < 512 * line.toNat + 512
        (reads → t.ctx b = some { c with progress := 0 }) ∧ (¬reads → t.ctx b = some c)) ∧
      { t with poison := s.poison, merged := s.merged, hdr := s.hdr, trace := s.trace, ctx0 := s.ctx0, ctx1 := s.ctx1 } = s)

/-- R47, R51, R192: an entry that was rejected or discarded completes in ring order with its status and reason (a discard reaches UM_GS_LAST
only, R197: log 84); it merges no flag, writes no byte, and changes no slot, tasting record, mailbox or ready bit. R235: the twin guest's
appends its header alone to the twin stream. R253, R255: its COMPLETE event. R199: so does one that the watchdog ended before its turn came,
with WATCHDOG alone as its flags, that flag's counter, and page 8's log and cause; it adds to no NaN or overflow count. -/
def Obligations.DeadEntriesCompleteAsTheyStand : Prop :=
  ∀ (s : State) (g : GuestId) (e : Entry), s.entries.find? (·.guest == g) = some e → s.running = true → e.ctx = none →
    (twinFull s = true → s.twin.guest ≠ g) →
    let frame (t : State) : Prop := (t.guest g).mbox = (s.guest g).mbox ∧ TraceGrows s t ∧ RequestJudged s t ∧
      t.unit = (if s.unit = .drain ∧ s.inExec = 0 then .idle else s.unit) ∧
      (s.unit = .drain → s.inExec = 0 → (vAt t.hdr 0).istat.getLsbD 1 = true) ∧
      { t with unit := s.unit, guests := s.guests, done := s.done, entries := s.entries, hdr := s.hdr, trace := s.trace, twin := s.twin,
               exc := s.exc, power := { t.power with sprintReq := s.power.sprintReq, granted := s.power.granted } } = s
    (e.reason ≠ 0x51 → ∃ t, exec (.itineraryComplete g) s = .next t ∧ Posted s t e ∧ (t.guest g).flags = (s.guest g).flags ∧
      t.exc = s.exc ∧ HeadersGrow s t ∧ CompleteTraced s t e 0 ∧ Streamed s t e 0 [] ∧ frame t) ∧
    (e.reason = 0x51 → ∃ t u, exec (.itineraryComplete g) s = .next t ∧ Posted s t e ∧ Streamed s t e 0x400#12 [] ∧ frame t ∧
      WatchdogFlagged s t g ∧ WatchdogLogged s t g e.index ∧
      Traced s u s.trace.ctrl 6 (logEntry s 8 0x51 stDetached (BitVec.ofNat 20 (g.toNat * 2 ^ 14 + e.index.toNat % 2 ^ 14))) ∧
      CompleteTraced u t e 0x400#12)

/-- R15, R51, R192, R193, R201, R202, R204: an itinerary that has run to its end, with every write accepted, completes: its flag set and
counts are merged, the summary record of Table 12-6 stands in its area and the mailbox, the ready bit follows R202, its slot is updated by
R105-R107 (a BF16 history code below 0x80 counts as zero: the model's reading, log 67) or left, its tasting record is merged by R118 into its
guest's and its slot's with the causes of page 14, the twin guest's segment is appended (R235), the COMPLETE event taken (R255), its context
is free, and no engine shows it any longer (R258); no byte outside the record's 64 changes, and what the other itinerary reads stays (R6, log
79). R178: in DRAIN the unit passes to IDLE with the last one in execution. Nothing completes outside the running states, before the
itinerary's last row is done, while one of its writes is in the FIFO, or for the twin guest while the twin FIFO is full (R27), nor where the
guest has no entry. -/
def Obligations.FinishedItinerariesPostTheirEffects : Prop :=
  (∀ (s : State) (g : GuestId), (∀ e ∈ s.entries, e.guest ≠ g) → exec (.itineraryComplete g) s = .next s) ∧
  (∀ (s : State) (g : GuestId) (e : Entry), s.entries.find? (·.guest == g) = some e →
    s.running = false ∨ (twinFull s = true ∧ s.twin.guest = g) ∨
      (∃ b c, e.ctx = some b ∧ s.ctx b = some c ∧
        (c.storing = false ∨ c.rowsDone ≠ workUnits c.it ∨ ∃ u ∈ s.wfifo, u.ctx = b)) →
    exec (.itineraryComplete g) s = .next s) ∧
  ∀ (s : State) (g : GuestId) (e : Entry) (b : Bool) (c : Ctx),
    s.entries.find? (·.guest == g) = some e → s.running = true → e.ctx = some b → s.ctx b = some c →
    c.storing = true → c.rowsDone = workUnits c.it → (∀ u ∈ s.wfifo, u.ctx ≠ b) → (twinFull s = true → s.twin.guest ≠ g) → areasInside c.it = true →
    ∃ t, exec (.itineraryComplete g) s = .next t ∧ Posted s t e ∧
      (t.guest g).flags = (s.guest g).flags ||| c.tally.flagSet ∧ t.exc.flags = s.exc.flags ||| c.tally.flagSet ∧
      t.exc.nanCnt = satAdd s.exc.nanCnt c.tally.nan ∧ t.exc.ovfCnt = satAdd s.exc.ovfCnt c.tally.ovf ∧
      (∀ f : Flag, vAt t.exc.evCnt (BitVec.ofNat 4 f.bit) = satAdd (vAt s.exc.evCnt (BitVec.ofNat 4 f.bit)) (c.tally.count f)) ∧
      (c.tally.flagSet &&& s.exc.fmask ≠ 0 → (vAt t.hdr 8).istat.getLsbD 0 = true) ∧
      (rSummary c.it = 0 → (t.guest g).mbox = (s.guest g).mbox) ∧
      (rSummary c.it ≠ 0 → SummaryIs e c fun i => vAt (t.guest g).mbox (BitVec.ofNat 3 i)) ∧
      (rSummary c.it ≤ 1 → t.mem = s.mem) ∧
      (2 ≤ rSummary c.it → MemInv s → (SummaryIs e c fun i => memWord t.mem (rSumBase c.it + 4 * i)) ∧
        ∀ i, 8 ≤ i → i < 16 → memWord t.mem (rSumBase c.it + 4 * i) = 0) ∧
      (e.summIntr = true ∧ rSummary c.it ≠ 0 ∧ SummaryWanted c → t.ready = s.ready ||| (1#64 <<< g.toNat)) ∧
      (¬(e.summIntr = true ∧ rSummary c.it ≠ 0 ∧ SummaryWanted c) → t.ready = s.ready) ∧
      (∀ a, a < rSumBase c.it ∨ rSumBase c.it + 64 ≤ a → memByte t.mem a = memByte s.mem a) ∧
      t.ctx b = none ∧ ReadsStay s t (!b) ∧
      (rVslotEn c.it = false → t.vint = s.vint ∧ t.tasting.slots = s.tasting.slots) ∧
      (UpdatesSlot c → SlotUpdated c (vAt s.vint.slots (rVslot c.it)) (vAt t.vint.slots (rVslot c.it)) ∧
        vAt t.vint.slots (rVslot c.it) = recUpdate (vAt s.vint.slots (rVslot c.it)) c) ∧
      (¬UpdatesSlot c → vAt t.vint.slots (rVslot c.it) = vAt s.vint.slots (rVslot c.it)) ∧
      TasteMerged c.taste (vAt s.tasting.guests c.guest) (vAt t.tasting.guests c.guest) ∧
      (rVslotEn c.it = true → TasteMerged c.taste (vAt s.tasting.slots (rVslot c.it)) (vAt t.tasting.slots (rVslot c.it))) ∧
      (vAt t.hdr 14).istat.getLsbD 0 = ((vAt s.hdr 14).istat.getLsbD 0 || decide (c.tsConvThr.toNat < c.taste.convMax)) ∧
      (vAt t.hdr 14).istat.getLsbD 1 = ((vAt s.hdr 14).istat.getLsbD 1 || decide (c.tsFnThr.toNat < c.taste.fnMax)) ∧
      { t.tasting with guests := s.tasting.guests, slots := s.tasting.slots } = s.tasting ∧
      Streamed s t e c.tally.flagSet (outputStream t c false ++ outputStream t c true ++
        match rSummary c.it with
        | 2 => (List.range 64).map fun k => memByte t.mem (rSumBase c.it + k)
        | 3 => (List.range (64 + 16 * rowCount c.it)).map fun k => memByte t.mem (rSumBase c.it + k)
        | _ => []) ∧
      CompleteTraced s t e c.tally.flagSet ∧
      (∀ k, k ≠ rVslot c.it → vAt t.vint.slots k = vAt s.vint.slots k ∧ vAt t.tasting.slots k = vAt s.tasting.slots k) ∧
      (∀ k, k ≠ c.guest → vAt t.tasting.guests k = vAt s.tasting.guests k) ∧ t.vint.maps = s.vint.maps ∧
      DrainPasses s t b ∧ RequestJudged s t ∧
      (∀ k, vAt t.engines k = if (vAt s.engines k).ctx = b then
        { Engine.empty with issued := (vAt s.engines k).issued, stepLeft := (vAt s.engines k).stepLeft } else vAt s.engines k) ∧
      t.wfifo = s.wfifo ∧ t.overlays = s.overlays ∧ t.cellar = s.cellar

/-- R198, R199: a watchdog that is due ends its itinerary: the context and its engines are free, its units leave the FIFO, the guest's entry
completes with DETACHED, 0x51 and WATCHDOG alone when it is the oldest, and waits for its turn when it is not, or while the twin FIFO is full
(R27), with no slot, tasting record or mailbox; the other itinerary, all that it reads (R6, log 79) and every byte outside its outputs and its
units' 8-byte groups stay. R178: in DRAIN the unit passes to IDLE with the last one in execution. One that is not due does nothing. That the
context is free at once and the oldest entry posts in the same command is log 12. R235, R255: the twin guest's appends its header alone, and
the WDOG event comes first. -/
def Obligations.WatchdogEndsOneItinerary : Prop :=
  ∀ (s : State) (b : Bool) (c : Ctx), s.ctx b = some c →
    let limit := (s.guest c.guest).limitUs.toNat * s.power.osc.toNat * 2000 / 2 ^ 20
    let due : Prop := (s.unit = .run ∨ s.unit = .drain) ∧ (s.guest c.guest).limitUs ≠ 0 ∧ limit ≤ c.progress
    let ended (t : State) : Prop := t.ctx b = none ∧ ReadsStay s t (!b) ∧ t.wfifo = s.wfifo.filter (·.ctx != b) ∧
      (∀ k, vAt t.engines k = if (vAt s.engines k).ctx = b then
        { Engine.empty with issued := (vAt s.engines k).issued, stepLeft := (vAt s.engines k).stepLeft } else vAt s.engines k) ∧
      (∀ a, (∀ u ∈ s.wfifo, u.ctx = b → ∀ w ∈ u.bytes, w.1 / 8 ≠ a / 8) → (∀ x ∈ outAreas c.it, a < x.lo ∨ x.hi ≤ a) →
        memByte t.mem a = memByte s.mem a) ∧
      TracedFirst s t c.trCtrl 0 (trEntry s 0x03 (if b then 1 else 0) c.guest.toNat
        (BitVec.ofNat 32 (c.index.toNat + (c.it.extractLsb' 0 4).toNat * 2 ^ 16)) (BitVec.ofNat 32 limit)) ∧
      DrainPasses s t b ∧ t.vint = s.vint ∧ t.tasting = s.tasting ∧ t.ready = s.ready
    (¬due → exec (.watchdog b) s = .next s) ∧
    (∀ e, due → s.entries.find? (·.guest == c.guest) = some e → e.ctx = some b → e.guest = c.guest →
      (twinFull s = true → s.twin.guest ≠ c.guest) →
      ∃ t, exec (.watchdog b) s = .next t ∧ ended t ∧ RequestJudged s t ∧
        Streamed s t { e with status := stDetached, reason := 0x51 } 0x400#12 [] ∧
        WatchdogFlagged s t c.guest ∧ WatchdogLogged s t c.guest e.index ∧
        (t.guest c.guest).mbox = (s.guest c.guest).mbox ∧ (t.guest c.guest).head = (s.guest c.guest).head + 1 ∧
        (t.guest c.guest).last.toNat = 5 + 0x51 * 2 ^ 8 + e.index.toNat * 2 ^ 16 ∧
        ((s.guest c.guest).state = .active → (s.guest c.guest).stopOnReject = true → (t.guest c.guest).state = .paused) ∧
        (∀ k, k ≠ c.guest → t.guest k = s.guest k)) ∧
    ∀ e, due → s.entries.find? (·.guest == c.guest) = some e →
      (e.ctx ≠ some b ∧ e.reason ≠ 0x51) ∨ (e.ctx = some b ∧ twinFull s = true ∧ s.twin.guest = c.guest) →
      ∃ t, exec (.watchdog b) s = .next t ∧ ended t ∧
        t.entries = s.entries.map (fun x => if x.ctx = some b then
          { x with status := stDetached, reason := 0x51, summIntr := false, ctx := none } else x) ∧
        t.guests = s.guests ∧ t.exc = s.exc ∧ t.done = s.done ∧ t.twin = s.twin ∧ HeadersGrow s t ∧ TraceGrows s t
end

