-- ==== Sys2Proof/Laws/Builtins.lean ====
section
/-! SUPPORT. What the run of a built-in blend can answer (R66, R128 to R133): all that a proof needs of its image. -/

namespace Sys2Proof.Machine

/-- The image of a slot whose instructions the model gives is the one executed. -/
theorem runBuiltin_fixed {slot : Nat} (g : Nat) (k v0 v1 v2 : Word) (h : (fixedInstrs slot).isEmpty = false) :
    runBuiltin slot g k v0 v1 v2 = imageRun slot g k v0 v1 v2 := by
  simp [runBuiltin, h]

/-- An image that keeps the rules is the one executed. -/
theorem runBuiltin_image {slot g : Nat} {k v0 v1 v2 : Word} (h : imageKeeps slot g k v0 v1 v2 = true) :
    runBuiltin slot g k v0 v1 v2 = imageRun slot g k v0 v1 v2 := by
  simp [runBuiltin, h]

/-- What an image of the coefficient ROM answers keeps the rules, or is what they ask. -/
theorem runBuiltin_due {slot : Nat} (g : Nat) (k v0 v1 v2 : Word) (h : (fixedInstrs slot).isEmpty = true) :
    (builtinDue slot g k v0 v1).keeps (runBuiltin slot g k v0 v1 v2) = true ∨
    runBuiltin slot g k v0 v1 v2 = (builtinDue slot g k v0 v1).value := by
  simp only [runBuiltin, h, Bool.not_true, Bool.false_or]
  split
  · next e => exact .inl (Bool.and_eq_true_iff.mp e).1
  · exact .inr rfl

/-- Where the rules fix the result of such an image, it is that result, whatever the image holds. -/
theorem runBuiltin_result {slot g : Nat} {k v0 v1 v2 : Word} {x : Word × List Flag} (h : (fixedInstrs slot).isEmpty = true)
    (d : builtinDue slot g k v0 v1 = .result x) : runBuiltin slot g k v0 v1 v2 = x := by
  rcases runBuiltin_due g k v0 v1 v2 h with e | e <;> rw [d] at e
  · exact eq_of_beq e
  · exact e

/-- Where they give a bound, no flag is raised, and the value meets the bound or is the FP32 value nearest to the exact one. -/
theorem runBuiltin_bound {slot g : Nat} {k v0 v1 v2 : Word} {f tol : XVal} (h : (fixedInstrs slot).isEmpty = true)
    (d : builtinDue slot g k v0 v1 = .bound f tol) :
    (runBuiltin slot g k v0 v1 v2).2 = [] ∧
    (fits f tol (runBuiltin slot g k v0 v1 v2).1 = true ∨ (runBuiltin slot g k v0 v1 v2).1 = round32 f) := by
  rcases runBuiltin_due g k v0 v1 v2 h with e | e <;> rw [d] at e
  · simp only [Due.keeps, Bool.and_eq_true, beq_iff_eq] at e
    exact ⟨e.1, .inl e.2⟩
  · exact ⟨congrArg Prod.snd e, .inr (congrArg Prod.fst e)⟩

end Sys2Proof.Machine
end

