-- ==== Sys2Proof/Laws/State.lean ====
section
/-! SUPPORT. Vectors indexed by bit vectors, and one lemma for each field of the state under each of its named updates. -/

namespace Sys2Proof

/-! ### Vectors -/

@[simp] theorem vAt_vPut_self {α : Type} {w : Nat} (v : Vector α (2 ^ w)) (i : BitVec w) (x : α) : vAt (vPut v i x) i = x := by
  simp [vAt, vPut]

theorem vAt_vPut_ne {α : Type} {w : Nat} (v : Vector α (2 ^ w)) {i j : BitVec w} (x : α) (h : j ≠ i) :
    vAt (vPut v i x) j = vAt v j := by
  have : i.toNat ≠ j.toNat := fun e => h (BitVec.eq_of_toNat_eq e.symm)
  simp [vAt, vPut, this]

theorem vAt_vPut {α : Type} {w : Nat} (v : Vector α (2 ^ w)) (i j : BitVec w) (x : α) :
    vAt (vPut v i x) j = if j = i then x else vAt v j := by
  by_cases h : j = i
  · simp [h]
  · simp [h, vAt_vPut_ne]

@[simp] theorem vAt_vAll {α : Type} {w : Nat} (x : α) (i : BitVec w) : vAt (vAll w x) i = x := by
  simp [vAt, vAll]

@[simp] theorem vPut_vAt_self {α : Type} {w : Nat} (v : Vector α (2 ^ w)) (i : BitVec w) : vPut v i (vAt v i) = v := by
  simp [vAt, vPut]

@[simp] theorem vPut_vPut_self {α : Type} {w : Nat} (v : Vector α (2 ^ w)) (i : BitVec w) (x y : α) :
    vPut (vPut v i x) i y = vPut v i y := by
  simp [vPut]

@[simp] theorem vAt_map {α β : Type} {w : Nat} (f : α → β) (v : Vector α (2 ^ w)) (i : BitVec w) : vAt (v.map f) i = f (vAt v i) := by
  simp [vAt]

/-- Two such vectors with the same elements are equal. -/
theorem vec_ext {α : Type} {w : Nat} {u v : Vector α (2 ^ w)} (h : ∀ i, vAt u i = vAt v i) : u = v := by
  apply Vector.ext
  intro i hi
  have := h (BitVec.ofNat w i)
  simpa [vAt, Nat.mod_eq_of_lt hi] using this

namespace Machine

/-- The state with its page headers and its trace replaced: what causes, logged events and trace events change. -/
def State.withLog (s : State) (h : Vector PageHdr (2 ^ 4)) (tr : Trace) : State := { s with hdr := h, trace := tr }

/-! ### Headers and trace replaced -/

@[simp] theorem State.withLog_unit (s : State) (h : Vector PageHdr (2 ^ 4)) (tr : Trace) : (s.withLog h tr).unit = s.unit := rfl
@[simp] theorem State.withLog_resetCause (s : State) (h : Vector PageHdr (2 ^ 4)) (tr : Trace) : (s.withLog h tr).resetCause = s.resetCause := rfl
@[simp] theorem State.withLog_faultCause (s : State) (h : Vector PageHdr (2 ^ 4)) (tr : Trace) : (s.withLog h tr).faultCause = s.faultCause := rfl
@[simp] theorem State.withLog_retention (s : State) (h : Vector PageHdr (2 ^ 4)) (tr : Trace) : (s.withLog h tr).retention = s.retention := rfl
@[simp] theorem State.withLog_resetN (s : State) (h : Vector PageHdr (2 ^ 4)) (tr : Trace) : (s.withLog h tr).resetN = s.resetN := rfl
@[simp] theorem State.withLog_vddMv (s : State) (h : Vector PageHdr (2 ^ 4)) (tr : Trace) : (s.withLog h tr).vddMv = s.vddMv := rfl
@[simp] theorem State.withLog_initRun (s : State) (h : Vector PageHdr (2 ^ 4)) (tr : Trace) : (s.withLog h tr).initRun = s.initRun := rfl
@[simp] theorem State.withLog_oscDone (s : State) (h : Vector PageHdr (2 ^ 4)) (tr : Trace) : (s.withLog h tr).oscDone = s.oscDone := rfl
@[simp] theorem State.withLog_upTicks (s : State) (h : Vector PageHdr (2 ^ 4)) (tr : Trace) : (s.withLog h tr).upTicks = s.upTicks := rfl
@[simp] theorem State.withLog_guests (s : State) (h : Vector PageHdr (2 ^ 4)) (tr : Trace) : (s.withLog h tr).guests = s.guests := rfl
@[simp] theorem State.withLog_done (s : State) (h : Vector PageHdr (2 ^ 4)) (tr : Trace) : (s.withLog h tr).done = s.done := rfl
@[simp] theorem State.withLog_ready (s : State) (h : Vector PageHdr (2 ^ 4)) (tr : Trace) : (s.withLog h tr).ready = s.ready := rfl
@[simp] theorem State.withLog_arbPtr (s : State) (h : Vector PageHdr (2 ^ 4)) (tr : Trace) : (s.withLog h tr).arbPtr = s.arbPtr := rfl
@[simp] theorem State.withLog_arbCredit (s : State) (h : Vector PageHdr (2 ^ 4)) (tr : Trace) : (s.withLog h tr).arbCredit = s.arbCredit := rfl
@[simp] theorem State.withLog_cur (s : State) (h : Vector PageHdr (2 ^ 4)) (tr : Trace) : (s.withLog h tr).cur = s.cur := rfl
@[simp] theorem State.withLog_entries (s : State) (h : Vector PageHdr (2 ^ 4)) (tr : Trace) : (s.withLog h tr).entries = s.entries := rfl
@[simp] theorem State.withLog_ctx0 (s : State) (h : Vector PageHdr (2 ^ 4)) (tr : Trace) : (s.withLog h tr).ctx0 = s.ctx0 := rfl
@[simp] theorem State.withLog_ctx1 (s : State) (h : Vector PageHdr (2 ^ 4)) (tr : Trace) : (s.withLog h tr).ctx1 = s.ctx1 := rfl
@[simp] theorem State.withLog_exec0 (s : State) (h : Vector PageHdr (2 ^ 4)) (tr : Trace) : (s.withLog h tr).exec0 = s.exec0 := rfl
@[simp] theorem State.withLog_exec1 (s : State) (h : Vector PageHdr (2 ^ 4)) (tr : Trace) : (s.withLog h tr).exec1 = s.exec1 := rfl
@[simp] theorem State.withLog_exIdx0 (s : State) (h : Vector PageHdr (2 ^ 4)) (tr : Trace) : (s.withLog h tr).exIdx0 = s.exIdx0 := rfl
@[simp] theorem State.withLog_exIdx1 (s : State) (h : Vector PageHdr (2 ^ 4)) (tr : Trace) : (s.withLog h tr).exIdx1 = s.exIdx1 := rfl
@[simp] theorem State.withLog_engines (s : State) (h : Vector PageHdr (2 ^ 4)) (tr : Trace) : (s.withLog h tr).engines = s.engines := rfl
@[simp] theorem State.withLog_wfifo (s : State) (h : Vector PageHdr (2 ^ 4)) (tr : Trace) : (s.withLog h tr).wfifo = s.wfifo := rfl
@[simp] theorem State.withLog_mem (s : State) (h : Vector PageHdr (2 ^ 4)) (tr : Trace) : (s.withLog h tr).mem = s.mem := rfl
@[simp] theorem State.withLog_poison (s : State) (h : Vector PageHdr (2 ^ 4)) (tr : Trace) : (s.withLog h tr).poison = s.poison := rfl
@[simp] theorem State.withLog_merged (s : State) (h : Vector PageHdr (2 ^ 4)) (tr : Trace) : (s.withLog h tr).merged = s.merged := rfl
@[simp] theorem State.withLog_overlays (s : State) (h : Vector PageHdr (2 ^ 4)) (tr : Trace) : (s.withLog h tr).overlays = s.overlays := rfl
@[simp] theorem State.withLog_ovSel (s : State) (h : Vector PageHdr (2 ^ 4)) (tr : Trace) : (s.withLog h tr).ovSel = s.ovSel := rfl
@[simp] theorem State.withLog_ovWin (s : State) (h : Vector PageHdr (2 ^ 4)) (tr : Trace) : (s.withLog h tr).ovWin = s.ovWin := rfl
@[simp] theorem State.withLog_ovBad (s : State) (h : Vector PageHdr (2 ^ 4)) (tr : Trace) : (s.withLog h tr).ovBad = s.ovBad := rfl
@[simp] theorem State.withLog_cellar (s : State) (h : Vector PageHdr (2 ^ 4)) (tr : Trace) : (s.withLog h tr).cellar = s.cellar := rfl
@[simp] theorem State.withLog_vint (s : State) (h : Vector PageHdr (2 ^ 4)) (tr : Trace) : (s.withLog h tr).vint = s.vint := rfl
@[simp] theorem State.withLog_exc (s : State) (h : Vector PageHdr (2 ^ 4)) (tr : Trace) : (s.withLog h tr).exc = s.exc := rfl
@[simp] theorem State.withLog_smCfg (s : State) (h : Vector PageHdr (2 ^ 4)) (tr : Trace) : (s.withLog h tr).smCfg = s.smCfg := rfl
@[simp] theorem State.withLog_power (s : State) (h : Vector PageHdr (2 ^ 4)) (tr : Trace) : (s.withLog h tr).power = s.power := rfl
@[simp] theorem State.withLog_health (s : State) (h : Vector PageHdr (2 ^ 4)) (tr : Trace) : (s.withLog h tr).health = s.health := rfl
@[simp] theorem State.withLog_test (s : State) (h : Vector PageHdr (2 ^ 4)) (tr : Trace) : (s.withLog h tr).test = s.test := rfl
@[simp] theorem State.withLog_twin (s : State) (h : Vector PageHdr (2 ^ 4)) (tr : Trace) : (s.withLog h tr).twin = s.twin := rfl
@[simp] theorem State.withLog_tasting (s : State) (h : Vector PageHdr (2 ^ 4)) (tr : Trace) : (s.withLog h tr).tasting = s.tasting := rfl
@[simp] theorem State.withLog_rdata (s : State) (h : Vector PageHdr (2 ^ 4)) (tr : Trace) : (s.withLog h tr).rdata = s.rdata := rfl
@[simp] theorem State.withLog_rdataLow (s : State) (h : Vector PageHdr (2 ^ 4)) (tr : Trace) : (s.withLog h tr).rdataLow = s.rdataLow := rfl
@[simp] theorem State.withLog_pmOut (s : State) (h : Vector PageHdr (2 ^ 4)) (tr : Trace) : (s.withLog h tr).pmOut = s.pmOut := rfl
@[simp] theorem State.withLog_twinOut (s : State) (h : Vector PageHdr (2 ^ 4)) (tr : Trace) : (s.withLog h tr).twinOut = s.twinOut := rfl
@[simp] theorem State.withLog_free (s : State) (h : Vector PageHdr (2 ^ 4)) (tr : Trace) : (s.withLog h tr).free = s.free := rfl
@[simp] theorem State.withLog_pending (s : State) (h : Vector PageHdr (2 ^ 4)) (tr : Trace) : (s.withLog h tr).pending = s.pending := rfl

/-! ### A page header changed -/

@[simp] theorem State.updHdr_unit (s : State) (p : PageId) (f : PageHdr → PageHdr) : (s.updHdr p f).unit = s.unit := rfl
@[simp] theorem State.updHdr_resetCause (s : State) (p : PageId) (f : PageHdr → PageHdr) : (s.updHdr p f).resetCause = s.resetCause := rfl
@[simp] theorem State.updHdr_faultCause (s : State) (p : PageId) (f : PageHdr → PageHdr) : (s.updHdr p f).faultCause = s.faultCause := rfl
@[simp] theorem State.updHdr_retention (s : State) (p : PageId) (f : PageHdr → PageHdr) : (s.updHdr p f).retention = s.retention := rfl
@[simp] theorem State.updHdr_resetN (s : State) (p : PageId) (f : PageHdr → PageHdr) : (s.updHdr p f).resetN = s.resetN := rfl
@[simp] theorem State.updHdr_vddMv (s : State) (p : PageId) (f : PageHdr → PageHdr) : (s.updHdr p f).vddMv = s.vddMv := rfl
@[simp] theorem State.updHdr_initRun (s : State) (p : PageId) (f : PageHdr → PageHdr) : (s.updHdr p f).initRun = s.initRun := rfl
@[simp] theorem State.updHdr_oscDone (s : State) (p : PageId) (f : PageHdr → PageHdr) : (s.updHdr p f).oscDone = s.oscDone := rfl
@[simp] theorem State.updHdr_upTicks (s : State) (p : PageId) (f : PageHdr → PageHdr) : (s.updHdr p f).upTicks = s.upTicks := rfl
@[simp] theorem State.updHdr_guests (s : State) (p : PageId) (f : PageHdr → PageHdr) : (s.updHdr p f).guests = s.guests := rfl
@[simp] theorem State.updHdr_done (s : State) (p : PageId) (f : PageHdr → PageHdr) : (s.updHdr p f).done = s.done := rfl
@[simp] theorem State.updHdr_ready (s : State) (p : PageId) (f : PageHdr → PageHdr) : (s.updHdr p f).ready = s.ready := rfl
@[simp] theorem State.updHdr_arbPtr (s : State) (p : PageId) (f : PageHdr → PageHdr) : (s.updHdr p f).arbPtr = s.arbPtr := rfl
@[simp] theorem State.updHdr_arbCredit (s : State) (p : PageId) (f : PageHdr → PageHdr) : (s.updHdr p f).arbCredit = s.arbCredit := rfl
@[simp] theorem State.updHdr_cur (s : State) (p : PageId) (f : PageHdr → PageHdr) : (s.updHdr p f).cur = s.cur := rfl
@[simp] theorem State.updHdr_entries (s : State) (p : PageId) (f : PageHdr → PageHdr) : (s.updHdr p f).entries = s.entries := rfl
@[simp] theorem State.updHdr_ctx0 (s : State) (p : PageId) (f : PageHdr → PageHdr) : (s.updHdr p f).ctx0 = s.ctx0 := rfl
@[simp] theorem State.updHdr_ctx1 (s : State) (p : PageId) (f : PageHdr → PageHdr) : (s.updHdr p f).ctx1 = s.ctx1 := rfl
@[simp] theorem State.updHdr_exec0 (s : State) (p : PageId) (f : PageHdr → PageHdr) : (s.updHdr p f).exec0 = s.exec0 := rfl
@[simp] theorem State.updHdr_exec1 (s : State) (p : PageId) (f : PageHdr → PageHdr) : (s.updHdr p f).exec1 = s.exec1 := rfl
@[simp] theorem State.updHdr_exIdx0 (s : State) (p : PageId) (f : PageHdr → PageHdr) : (s.updHdr p f).exIdx0 = s.exIdx0 := rfl
@[simp] theorem State.updHdr_exIdx1 (s : State) (p : PageId) (f : PageHdr → PageHdr) : (s.updHdr p f).exIdx1 = s.exIdx1 := rfl
@[simp] theorem State.updHdr_engines (s : State) (p : PageId) (f : PageHdr → PageHdr) : (s.updHdr p f).engines = s.engines := rfl
@[simp] theorem State.updHdr_wfifo (s : State) (p : PageId) (f : PageHdr → PageHdr) : (s.updHdr p f).wfifo = s.wfifo := rfl
@[simp] theorem State.updHdr_mem (s : State) (p : PageId) (f : PageHdr → PageHdr) : (s.updHdr p f).mem = s.mem := rfl
@[simp] theorem State.updHdr_poison (s : State) (p : PageId) (f : PageHdr → PageHdr) : (s.updHdr p f).poison = s.poison := rfl
@[simp] theorem State.updHdr_merged (s : State) (p : PageId) (f : PageHdr → PageHdr) : (s.updHdr p f).merged = s.merged := rfl
@[simp] theorem State.updHdr_overlays (s : State) (p : PageId) (f : PageHdr → PageHdr) : (s.updHdr p f).overlays = s.overlays := rfl
@[simp] theorem State.updHdr_ovSel (s : State) (p : PageId) (f : PageHdr → PageHdr) : (s.updHdr p f).ovSel = s.ovSel := rfl
@[simp] theorem State.updHdr_ovWin (s : State) (p : PageId) (f : PageHdr → PageHdr) : (s.updHdr p f).ovWin = s.ovWin := rfl
@[simp] theorem State.updHdr_ovBad (s : State) (p : PageId) (f : PageHdr → PageHdr) : (s.updHdr p f).ovBad = s.ovBad := rfl
@[simp] theorem State.updHdr_cellar (s : State) (p : PageId) (f : PageHdr → PageHdr) : (s.updHdr p f).cellar = s.cellar := rfl
@[simp] theorem State.updHdr_vint (s : State) (p : PageId) (f : PageHdr → PageHdr) : (s.updHdr p f).vint = s.vint := rfl
@[simp] theorem State.updHdr_exc (s : State) (p : PageId) (f : PageHdr → PageHdr) : (s.updHdr p f).exc = s.exc := rfl
@[simp] theorem State.updHdr_smCfg (s : State) (p : PageId) (f : PageHdr → PageHdr) : (s.updHdr p f).smCfg = s.smCfg := rfl
@[simp] theorem State.updHdr_power (s : State) (p : PageId) (f : PageHdr → PageHdr) : (s.updHdr p f).power = s.power := rfl
@[simp] theorem State.updHdr_health (s : State) (p : PageId) (f : PageHdr → PageHdr) : (s.updHdr p f).health = s.health := rfl
@[simp] theorem State.updHdr_test (s : State) (p : PageId) (f : PageHdr → PageHdr) : (s.updHdr p f).test = s.test := rfl
@[simp] theorem State.updHdr_twin (s : State) (p : PageId) (f : PageHdr → PageHdr) : (s.updHdr p f).twin = s.twin := rfl
@[simp] theorem State.updHdr_tasting (s : State) (p : PageId) (f : PageHdr → PageHdr) : (s.updHdr p f).tasting = s.tasting := rfl
@[simp] theorem State.updHdr_trace (s : State) (p : PageId) (f : PageHdr → PageHdr) : (s.updHdr p f).trace = s.trace := rfl
@[simp] theorem State.updHdr_rdata (s : State) (p : PageId) (f : PageHdr → PageHdr) : (s.updHdr p f).rdata = s.rdata := rfl
@[simp] theorem State.updHdr_rdataLow (s : State) (p : PageId) (f : PageHdr → PageHdr) : (s.updHdr p f).rdataLow = s.rdataLow := rfl
@[simp] theorem State.updHdr_pmOut (s : State) (p : PageId) (f : PageHdr → PageHdr) : (s.updHdr p f).pmOut = s.pmOut := rfl
@[simp] theorem State.updHdr_twinOut (s : State) (p : PageId) (f : PageHdr → PageHdr) : (s.updHdr p f).twinOut = s.twinOut := rfl
@[simp] theorem State.updHdr_free (s : State) (p : PageId) (f : PageHdr → PageHdr) : (s.updHdr p f).free = s.free := rfl
@[simp] theorem State.updHdr_pending (s : State) (p : PageId) (f : PageHdr → PageHdr) : (s.updHdr p f).pending = s.pending := rfl

/-! ### A guest changed -/

@[simp] theorem State.updGuest_unit (s : State) (g : GuestId) (f : Guest → Guest) : (s.updGuest g f).unit = s.unit := rfl
@[simp] theorem State.updGuest_resetCause (s : State) (g : GuestId) (f : Guest → Guest) : (s.updGuest g f).resetCause = s.resetCause := rfl
@[simp] theorem State.updGuest_faultCause (s : State) (g : GuestId) (f : Guest → Guest) : (s.updGuest g f).faultCause = s.faultCause := rfl
@[simp] theorem State.updGuest_retention (s : State) (g : GuestId) (f : Guest → Guest) : (s.updGuest g f).retention = s.retention := rfl
@[simp] theorem State.updGuest_resetN (s : State) (g : GuestId) (f : Guest → Guest) : (s.updGuest g f).resetN = s.resetN := rfl
@[simp] theorem State.updGuest_vddMv (s : State) (g : GuestId) (f : Guest → Guest) : (s.updGuest g f).vddMv = s.vddMv := rfl
@[simp] theorem State.updGuest_initRun (s : State) (g : GuestId) (f : Guest → Guest) : (s.updGuest g f).initRun = s.initRun := rfl
@[simp] theorem State.updGuest_oscDone (s : State) (g : GuestId) (f : Guest → Guest) : (s.updGuest g f).oscDone = s.oscDone := rfl
@[simp] theorem State.updGuest_upTicks (s : State) (g : GuestId) (f : Guest → Guest) : (s.updGuest g f).upTicks = s.upTicks := rfl
@[simp] theorem State.updGuest_hdr (s : State) (g : GuestId) (f : Guest → Guest) : (s.updGuest g f).hdr = s.hdr := rfl
@[simp] theorem State.updGuest_done (s : State) (g : GuestId) (f : Guest → Guest) : (s.updGuest g f).done = s.done := rfl
@[simp] theorem State.updGuest_ready (s : State) (g : GuestId) (f : Guest → Guest) : (s.updGuest g f).ready = s.ready := rfl
@[simp] theorem State.updGuest_arbPtr (s : State) (g : GuestId) (f : Guest → Guest) : (s.updGuest g f).arbPtr = s.arbPtr := rfl
@[simp] theorem State.updGuest_arbCredit (s : State) (g : GuestId) (f : Guest → Guest) : (s.updGuest g f).arbCredit = s.arbCredit := rfl
@[simp] theorem State.updGuest_cur (s : State) (g : GuestId) (f : Guest → Guest) : (s.updGuest g f).cur = s.cur := rfl
@[simp] theorem State.updGuest_entries (s : State) (g : GuestId) (f : Guest → Guest) : (s.updGuest g f).entries = s.entries := rfl
@[simp] theorem State.updGuest_ctx0 (s : State) (g : GuestId) (f : Guest → Guest) : (s.updGuest g f).ctx0 = s.ctx0 := rfl
@[simp] theorem State.updGuest_ctx1 (s : State) (g : GuestId) (f : Guest → Guest) : (s.updGuest g f).ctx1 = s.ctx1 := rfl
@[simp] theorem State.updGuest_exec0 (s : State) (g : GuestId) (f : Guest → Guest) : (s.updGuest g f).exec0 = s.exec0 := rfl
@[simp] theorem State.updGuest_exec1 (s : State) (g : GuestId) (f : Guest → Guest) : (s.updGuest g f).exec1 = s.exec1 := rfl
@[simp] theorem State.updGuest_exIdx0 (s : State) (g : GuestId) (f : Guest → Guest) : (s.updGuest g f).exIdx0 = s.exIdx0 := rfl
@[simp] theorem State.updGuest_exIdx1 (s : State) (g : GuestId) (f : Guest → Guest) : (s.updGuest g f).exIdx1 = s.exIdx1 := rfl
@[simp] theorem State.updGuest_engines (s : State) (g : GuestId) (f : Guest → Guest) : (s.updGuest g f).engines = s.engines := rfl
@[simp] theorem State.updGuest_wfifo (s : State) (g : GuestId) (f : Guest → Guest) : (s.updGuest g f).wfifo = s.wfifo := rfl
@[simp] theorem State.updGuest_mem (s : State) (g : GuestId) (f : Guest → Guest) : (s.updGuest g f).mem = s.mem := rfl
@[simp] theorem State.updGuest_poison (s : State) (g : GuestId) (f : Guest → Guest) : (s.updGuest g f).poison = s.poison := rfl
@[simp] theorem State.updGuest_merged (s : State) (g : GuestId) (f : Guest → Guest) : (s.updGuest g f).merged = s.merged := rfl
@[simp] theorem State.updGuest_overlays (s : State) (g : GuestId) (f : Guest → Guest) : (s.updGuest g f).overlays = s.overlays := rfl
@[simp] theorem State.updGuest_ovSel (s : State) (g : GuestId) (f : Guest → Guest) : (s.updGuest g f).ovSel = s.ovSel := rfl
@[simp] theorem State.updGuest_ovWin (s : State) (g : GuestId) (f : Guest → Guest) : (s.updGuest g f).ovWin = s.ovWin := rfl
@[simp] theorem State.updGuest_ovBad (s : State) (g : GuestId) (f : Guest → Guest) : (s.updGuest g f).ovBad = s.ovBad := rfl
@[simp] theorem State.updGuest_cellar (s : State) (g : GuestId) (f : Guest → Guest) : (s.updGuest g f).cellar = s.cellar := rfl
@[simp] theorem State.updGuest_vint (s : State) (g : GuestId) (f : Guest → Guest) : (s.updGuest g f).vint = s.vint := rfl
@[simp] theorem State.updGuest_exc (s : State) (g : GuestId) (f : Guest → Guest) : (s.updGuest g f).exc = s.exc := rfl
@[simp] theorem State.updGuest_smCfg (s : State) (g : GuestId) (f : Guest → Guest) : (s.updGuest g f).smCfg = s.smCfg := rfl
@[simp] theorem State.updGuest_power (s : State) (g : GuestId) (f : Guest → Guest) : (s.updGuest g f).power = s.power := rfl
@[simp] theorem State.updGuest_health (s : State) (g : GuestId) (f : Guest → Guest) : (s.updGuest g f).health = s.health := rfl
@[simp] theorem State.updGuest_test (s : State) (g : GuestId) (f : Guest → Guest) : (s.updGuest g f).test = s.test := rfl
@[simp] theorem State.updGuest_twin (s : State) (g : GuestId) (f : Guest → Guest) : (s.updGuest g f).twin = s.twin := rfl
@[simp] theorem State.updGuest_tasting (s : State) (g : GuestId) (f : Guest → Guest) : (s.updGuest g f).tasting = s.tasting := rfl
@[simp] theorem State.updGuest_trace (s : State) (g : GuestId) (f : Guest → Guest) : (s.updGuest g f).trace = s.trace := rfl
@[simp] theorem State.updGuest_rdata (s : State) (g : GuestId) (f : Guest → Guest) : (s.updGuest g f).rdata = s.rdata := rfl
@[simp] theorem State.updGuest_rdataLow (s : State) (g : GuestId) (f : Guest → Guest) : (s.updGuest g f).rdataLow = s.rdataLow := rfl
@[simp] theorem State.updGuest_pmOut (s : State) (g : GuestId) (f : Guest → Guest) : (s.updGuest g f).pmOut = s.pmOut := rfl
@[simp] theorem State.updGuest_twinOut (s : State) (g : GuestId) (f : Guest → Guest) : (s.updGuest g f).twinOut = s.twinOut := rfl
@[simp] theorem State.updGuest_free (s : State) (g : GuestId) (f : Guest → Guest) : (s.updGuest g f).free = s.free := rfl
@[simp] theorem State.updGuest_pending (s : State) (g : GuestId) (f : Guest → Guest) : (s.updGuest g f).pending = s.pending := rfl

/-! ### A context replaced -/

@[simp] theorem State.setCtx_unit (s : State) (b : Bool) (x : Option Ctx) : (s.setCtx b x).unit = s.unit := by cases b <;> rfl
@[simp] theorem State.setCtx_resetCause (s : State) (b : Bool) (x : Option Ctx) : (s.setCtx b x).resetCause = s.resetCause := by cases b <;> rfl
@[simp] theorem State.setCtx_faultCause (s : State) (b : Bool) (x : Option Ctx) : (s.setCtx b x).faultCause = s.faultCause := by cases b <;> rfl
@[simp] theorem State.setCtx_retention (s : State) (b : Bool) (x : Option Ctx) : (s.setCtx b x).retention = s.retention := by cases b <;> rfl
@[simp] theorem State.setCtx_resetN (s : State) (b : Bool) (x : Option Ctx) : (s.setCtx b x).resetN = s.resetN := by cases b <;> rfl
@[simp] theorem State.setCtx_vddMv (s : State) (b : Bool) (x : Option Ctx) : (s.setCtx b x).vddMv = s.vddMv := by cases b <;> rfl
@[simp] theorem State.setCtx_initRun (s : State) (b : Bool) (x : Option Ctx) : (s.setCtx b x).initRun = s.initRun := by cases b <;> rfl
@[simp] theorem State.setCtx_oscDone (s : State) (b : Bool) (x : Option Ctx) : (s.setCtx b x).oscDone = s.oscDone := by cases b <;> rfl
@[simp] theorem State.setCtx_upTicks (s : State) (b : Bool) (x : Option Ctx) : (s.setCtx b x).upTicks = s.upTicks := by cases b <;> rfl
@[simp] theorem State.setCtx_hdr (s : State) (b : Bool) (x : Option Ctx) : (s.setCtx b x).hdr = s.hdr := by cases b <;> rfl
@[simp] theorem State.setCtx_guests (s : State) (b : Bool) (x : Option Ctx) : (s.setCtx b x).guests = s.guests := by cases b <;> rfl
@[simp] theorem State.setCtx_done (s : State) (b : Bool) (x : Option Ctx) : (s.setCtx b x).done = s.done := by cases b <;> rfl
@[simp] theorem State.setCtx_ready (s : State) (b : Bool) (x : Option Ctx) : (s.setCtx b x).ready = s.ready := by cases b <;> rfl
@[simp] theorem State.setCtx_arbPtr (s : State) (b : Bool) (x : Option Ctx) : (s.setCtx b x).arbPtr = s.arbPtr := by cases b <;> rfl
@[simp] theorem State.setCtx_arbCredit (s : State) (b : Bool) (x : Option Ctx) : (s.setCtx b x).arbCredit = s.arbCredit := by cases b <;> rfl
@[simp] theorem State.setCtx_cur (s : State) (b : Bool) (x : Option Ctx) : (s.setCtx b x).cur = s.cur := by cases b <;> rfl
@[simp] theorem State.setCtx_entries (s : State) (b : Bool) (x : Option Ctx) : (s.setCtx b x).entries = s.entries := by cases b <;> rfl
@[simp] theorem State.setCtx_exec0 (s : State) (b : Bool) (x : Option Ctx) : (s.setCtx b x).exec0 = s.exec0 := by cases b <;> rfl
@[simp] theorem State.setCtx_exec1 (s : State) (b : Bool) (x : Option Ctx) : (s.setCtx b x).exec1 = s.exec1 := by cases b <;> rfl
@[simp] theorem State.setCtx_exIdx0 (s : State) (b : Bool) (x : Option Ctx) : (s.setCtx b x).exIdx0 = s.exIdx0 := by cases b <;> rfl
@[simp] theorem State.setCtx_exIdx1 (s : State) (b : Bool) (x : Option Ctx) : (s.setCtx b x).exIdx1 = s.exIdx1 := by cases b <;> rfl
@[simp] theorem State.setCtx_engines (s : State) (b : Bool) (x : Option Ctx) : (s.setCtx b x).engines = s.engines := by cases b <;> rfl
@[simp] theorem State.setCtx_wfifo (s : State) (b : Bool) (x : Option Ctx) : (s.setCtx b x).wfifo = s.wfifo := by cases b <;> rfl
@[simp] theorem State.setCtx_mem (s : State) (b : Bool) (x : Option Ctx) : (s.setCtx b x).mem = s.mem := by cases b <;> rfl
@[simp] theorem State.setCtx_poison (s : State) (b : Bool) (x : Option Ctx) : (s.setCtx b x).poison = s.poison := by cases b <;> rfl
@[simp] theorem State.setCtx_merged (s : State) (b : Bool) (x : Option Ctx) : (s.setCtx b x).merged = s.merged := by cases b <;> rfl
@[simp] theorem State.setCtx_overlays (s : State) (b : Bool) (x : Option Ctx) : (s.setCtx b x).overlays = s.overlays := by cases b <;> rfl
@[simp] theorem State.setCtx_ovSel (s : State) (b : Bool) (x : Option Ctx) : (s.setCtx b x).ovSel = s.ovSel := by cases b <;> rfl
@[simp] theorem State.setCtx_ovWin (s : State) (b : Bool) (x : Option Ctx) : (s.setCtx b x).ovWin = s.ovWin := by cases b <;> rfl
@[simp] theorem State.setCtx_ovBad (s : State) (b : Bool) (x : Option Ctx) : (s.setCtx b x).ovBad = s.ovBad := by cases b <;> rfl
@[simp] theorem State.setCtx_cellar (s : State) (b : Bool) (x : Option Ctx) : (s.setCtx b x).cellar = s.cellar := by cases b <;> rfl
@[simp] theorem State.setCtx_vint (s : State) (b : Bool) (x : Option Ctx) : (s.setCtx b x).vint = s.vint := by cases b <;> rfl
@[simp] theorem State.setCtx_exc (s : State) (b : Bool) (x : Option Ctx) : (s.setCtx b x).exc = s.exc := by cases b <;> rfl
@[simp] theorem State.setCtx_smCfg (s : State) (b : Bool) (x : Option Ctx) : (s.setCtx b x).smCfg = s.smCfg := by cases b <;> rfl
@[simp] theorem State.setCtx_power (s : State) (b : Bool) (x : Option Ctx) : (s.setCtx b x).power = s.power := by cases b <;> rfl
@[simp] theorem State.setCtx_health (s : State) (b : Bool) (x : Option Ctx) : (s.setCtx b x).health = s.health := by cases b <;> rfl
@[simp] theorem State.setCtx_test (s : State) (b : Bool) (x : Option Ctx) : (s.setCtx b x).test = s.test := by cases b <;> rfl
@[simp] theorem State.setCtx_twin (s : State) (b : Bool) (x : Option Ctx) : (s.setCtx b x).twin = s.twin := by cases b <;> rfl
@[simp] theorem State.setCtx_tasting (s : State) (b : Bool) (x : Option Ctx) : (s.setCtx b x).tasting = s.tasting := by cases b <;> rfl
@[simp] theorem State.setCtx_trace (s : State) (b : Bool) (x : Option Ctx) : (s.setCtx b x).trace = s.trace := by cases b <;> rfl
@[simp] theorem State.setCtx_rdata (s : State) (b : Bool) (x : Option Ctx) : (s.setCtx b x).rdata = s.rdata := by cases b <;> rfl
@[simp] theorem State.setCtx_rdataLow (s : State) (b : Bool) (x : Option Ctx) : (s.setCtx b x).rdataLow = s.rdataLow := by cases b <;> rfl
@[simp] theorem State.setCtx_pmOut (s : State) (b : Bool) (x : Option Ctx) : (s.setCtx b x).pmOut = s.pmOut := by cases b <;> rfl
@[simp] theorem State.setCtx_twinOut (s : State) (b : Bool) (x : Option Ctx) : (s.setCtx b x).twinOut = s.twinOut := by cases b <;> rfl
@[simp] theorem State.setCtx_free (s : State) (b : Bool) (x : Option Ctx) : (s.setCtx b x).free = s.free := by cases b <;> rfl
@[simp] theorem State.setCtx_pending (s : State) (b : Bool) (x : Option Ctx) : (s.setCtx b x).pending = s.pending := by cases b <;> rfl

/-! ### An engine replaced -/

@[simp] theorem State.setEngine_unit (s : State) (e : EngineId) (x : Engine) : (s.setEngine e x).unit = s.unit := rfl
@[simp] theorem State.setEngine_resetCause (s : State) (e : EngineId) (x : Engine) : (s.setEngine e x).resetCause = s.resetCause := rfl
@[simp] theorem State.setEngine_faultCause (s : State) (e : EngineId) (x : Engine) : (s.setEngine e x).faultCause = s.faultCause := rfl
@[simp] theorem State.setEngine_retention (s : State) (e : EngineId) (x : Engine) : (s.setEngine e x).retention = s.retention := rfl
@[simp] theorem State.setEngine_resetN (s : State) (e : EngineId) (x : Engine) : (s.setEngine e x).resetN = s.resetN := rfl
@[simp] theorem State.setEngine_vddMv (s : State) (e : EngineId) (x : Engine) : (s.setEngine e x).vddMv = s.vddMv := rfl
@[simp] theorem State.setEngine_initRun (s : State) (e : EngineId) (x : Engine) : (s.setEngine e x).initRun = s.initRun := rfl
@[simp] theorem State.setEngine_oscDone (s : State) (e : EngineId) (x : Engine) : (s.setEngine e x).oscDone = s.oscDone := rfl
@[simp] theorem State.setEngine_upTicks (s : State) (e : EngineId) (x : Engine) : (s.setEngine e x).upTicks = s.upTicks := rfl
@[simp] theorem State.setEngine_hdr (s : State) (e : EngineId) (x : Engine) : (s.setEngine e x).hdr = s.hdr := rfl
@[simp] theorem State.setEngine_guests (s : State) (e : EngineId) (x : Engine) : (s.setEngine e x).guests = s.guests := rfl
@[simp] theorem State.setEngine_done (s : State) (e : EngineId) (x : Engine) : (s.setEngine e x).done = s.done := rfl
@[simp] theorem State.setEngine_ready (s : State) (e : EngineId) (x : Engine) : (s.setEngine e x).ready = s.ready := rfl
@[simp] theorem State.setEngine_arbPtr (s : State) (e : EngineId) (x : Engine) : (s.setEngine e x).arbPtr = s.arbPtr := rfl
@[simp] theorem State.setEngine_arbCredit (s : State) (e : EngineId) (x : Engine) : (s.setEngine e x).arbCredit = s.arbCredit := rfl
@[simp] theorem State.setEngine_cur (s : State) (e : EngineId) (x : Engine) : (s.setEngine e x).cur = s.cur := rfl
@[simp] theorem State.setEngine_entries (s : State) (e : EngineId) (x : Engine) : (s.setEngine e x).entries = s.entries := rfl
@[simp] theorem State.setEngine_ctx0 (s : State) (e : EngineId) (x : Engine) : (s.setEngine e x).ctx0 = s.ctx0 := rfl
@[simp] theorem State.setEngine_ctx1 (s : State) (e : EngineId) (x : Engine) : (s.setEngine e x).ctx1 = s.ctx1 := rfl
@[simp] theorem State.setEngine_exec0 (s : State) (e : EngineId) (x : Engine) : (s.setEngine e x).exec0 = s.exec0 := rfl
@[simp] theorem State.setEngine_exec1 (s : State) (e : EngineId) (x : Engine) : (s.setEngine e x).exec1 = s.exec1 := rfl
@[simp] theorem State.setEngine_exIdx0 (s : State) (e : EngineId) (x : Engine) : (s.setEngine e x).exIdx0 = s.exIdx0 := rfl
@[simp] theorem State.setEngine_exIdx1 (s : State) (e : EngineId) (x : Engine) : (s.setEngine e x).exIdx1 = s.exIdx1 := rfl
@[simp] theorem State.setEngine_wfifo (s : State) (e : EngineId) (x : Engine) : (s.setEngine e x).wfifo = s.wfifo := rfl
@[simp] theorem State.setEngine_mem (s : State) (e : EngineId) (x : Engine) : (s.setEngine e x).mem = s.mem := rfl
@[simp] theorem State.setEngine_poison (s : State) (e : EngineId) (x : Engine) : (s.setEngine e x).poison = s.poison := rfl
@[simp] theorem State.setEngine_merged (s : State) (e : EngineId) (x : Engine) : (s.setEngine e x).merged = s.merged := rfl
@[simp] theorem State.setEngine_overlays (s : State) (e : EngineId) (x : Engine) : (s.setEngine e x).overlays = s.overlays := rfl
@[simp] theorem State.setEngine_ovSel (s : State) (e : EngineId) (x : Engine) : (s.setEngine e x).ovSel = s.ovSel := rfl
@[simp] theorem State.setEngine_ovWin (s : State) (e : EngineId) (x : Engine) : (s.setEngine e x).ovWin = s.ovWin := rfl
@[simp] theorem State.setEngine_ovBad (s : State) (e : EngineId) (x : Engine) : (s.setEngine e x).ovBad = s.ovBad := rfl
@[simp] theorem State.setEngine_cellar (s : State) (e : EngineId) (x : Engine) : (s.setEngine e x).cellar = s.cellar := rfl
@[simp] theorem State.setEngine_vint (s : State) (e : EngineId) (x : Engine) : (s.setEngine e x).vint = s.vint := rfl
@[simp] theorem State.setEngine_exc (s : State) (e : EngineId) (x : Engine) : (s.setEngine e x).exc = s.exc := rfl
@[simp] theorem State.setEngine_smCfg (s : State) (e : EngineId) (x : Engine) : (s.setEngine e x).smCfg = s.smCfg := rfl
@[simp] theorem State.setEngine_power (s : State) (e : EngineId) (x : Engine) : (s.setEngine e x).power = s.power := rfl
@[simp] theorem State.setEngine_health (s : State) (e : EngineId) (x : Engine) : (s.setEngine e x).health = s.health := rfl
@[simp] theorem State.setEngine_test (s : State) (e : EngineId) (x : Engine) : (s.setEngine e x).test = s.test := rfl
@[simp] theorem State.setEngine_twin (s : State) (e : EngineId) (x : Engine) : (s.setEngine e x).twin = s.twin := rfl
@[simp] theorem State.setEngine_tasting (s : State) (e : EngineId) (x : Engine) : (s.setEngine e x).tasting = s.tasting := rfl
@[simp] theorem State.setEngine_trace (s : State) (e : EngineId) (x : Engine) : (s.setEngine e x).trace = s.trace := rfl
@[simp] theorem State.setEngine_rdata (s : State) (e : EngineId) (x : Engine) : (s.setEngine e x).rdata = s.rdata := rfl
@[simp] theorem State.setEngine_rdataLow (s : State) (e : EngineId) (x : Engine) : (s.setEngine e x).rdataLow = s.rdataLow := rfl
@[simp] theorem State.setEngine_pmOut (s : State) (e : EngineId) (x : Engine) : (s.setEngine e x).pmOut = s.pmOut := rfl
@[simp] theorem State.setEngine_twinOut (s : State) (e : EngineId) (x : Engine) : (s.setEngine e x).twinOut = s.twinOut := rfl
@[simp] theorem State.setEngine_free (s : State) (e : EngineId) (x : Engine) : (s.setEngine e x).free = s.free := rfl
@[simp] theorem State.setEngine_pending (s : State) (e : EngineId) (x : Engine) : (s.setEngine e x).pending = s.pending := rfl

/-! ### The reads of both itineraries guarded -/

@[simp] theorem State.guardReads_unit (s : State) (ws : ByteWrites) : (s.guardReads ws).unit = s.unit := rfl
@[simp] theorem State.guardReads_resetCause (s : State) (ws : ByteWrites) : (s.guardReads ws).resetCause = s.resetCause := rfl
@[simp] theorem State.guardReads_faultCause (s : State) (ws : ByteWrites) : (s.guardReads ws).faultCause = s.faultCause := rfl
@[simp] theorem State.guardReads_retention (s : State) (ws : ByteWrites) : (s.guardReads ws).retention = s.retention := rfl
@[simp] theorem State.guardReads_resetN (s : State) (ws : ByteWrites) : (s.guardReads ws).resetN = s.resetN := rfl
@[simp] theorem State.guardReads_vddMv (s : State) (ws : ByteWrites) : (s.guardReads ws).vddMv = s.vddMv := rfl
@[simp] theorem State.guardReads_initRun (s : State) (ws : ByteWrites) : (s.guardReads ws).initRun = s.initRun := rfl
@[simp] theorem State.guardReads_oscDone (s : State) (ws : ByteWrites) : (s.guardReads ws).oscDone = s.oscDone := rfl
@[simp] theorem State.guardReads_upTicks (s : State) (ws : ByteWrites) : (s.guardReads ws).upTicks = s.upTicks := rfl
@[simp] theorem State.guardReads_hdr (s : State) (ws : ByteWrites) : (s.guardReads ws).hdr = s.hdr := rfl
@[simp] theorem State.guardReads_guests (s : State) (ws : ByteWrites) : (s.guardReads ws).guests = s.guests := rfl
@[simp] theorem State.guardReads_done (s : State) (ws : ByteWrites) : (s.guardReads ws).done = s.done := rfl
@[simp] theorem State.guardReads_ready (s : State) (ws : ByteWrites) : (s.guardReads ws).ready = s.ready := rfl
@[simp] theorem State.guardReads_arbPtr (s : State) (ws : ByteWrites) : (s.guardReads ws).arbPtr = s.arbPtr := rfl
@[simp] theorem State.guardReads_arbCredit (s : State) (ws : ByteWrites) : (s.guardReads ws).arbCredit = s.arbCredit := rfl
@[simp] theorem State.guardReads_cur (s : State) (ws : ByteWrites) : (s.guardReads ws).cur = s.cur := rfl
@[simp] theorem State.guardReads_entries (s : State) (ws : ByteWrites) : (s.guardReads ws).entries = s.entries := rfl
@[simp] theorem State.guardReads_exec0 (s : State) (ws : ByteWrites) : (s.guardReads ws).exec0 = s.exec0 := rfl
@[simp] theorem State.guardReads_exec1 (s : State) (ws : ByteWrites) : (s.guardReads ws).exec1 = s.exec1 := rfl
@[simp] theorem State.guardReads_exIdx0 (s : State) (ws : ByteWrites) : (s.guardReads ws).exIdx0 = s.exIdx0 := rfl
@[simp] theorem State.guardReads_exIdx1 (s : State) (ws : ByteWrites) : (s.guardReads ws).exIdx1 = s.exIdx1 := rfl
@[simp] theorem State.guardReads_engines (s : State) (ws : ByteWrites) : (s.guardReads ws).engines = s.engines := rfl
@[simp] theorem State.guardReads_wfifo (s : State) (ws : ByteWrites) : (s.guardReads ws).wfifo = s.wfifo := rfl
@[simp] theorem State.guardReads_mem (s : State) (ws : ByteWrites) : (s.guardReads ws).mem = s.mem := rfl
@[simp] theorem State.guardReads_poison (s : State) (ws : ByteWrites) : (s.guardReads ws).poison = s.poison := rfl
@[simp] theorem State.guardReads_merged (s : State) (ws : ByteWrites) : (s.guardReads ws).merged = s.merged := rfl
@[simp] theorem State.guardReads_overlays (s : State) (ws : ByteWrites) : (s.guardReads ws).overlays = s.overlays := rfl
@[simp] theorem State.guardReads_ovSel (s : State) (ws : ByteWrites) : (s.guardReads ws).ovSel = s.ovSel := rfl
@[simp] theorem State.guardReads_ovWin (s : State) (ws : ByteWrites) : (s.guardReads ws).ovWin = s.ovWin := rfl
@[simp] theorem State.guardReads_ovBad (s : State) (ws : ByteWrites) : (s.guardReads ws).ovBad = s.ovBad := rfl
@[simp] theorem State.guardReads_cellar (s : State) (ws : ByteWrites) : (s.guardReads ws).cellar = s.cellar := rfl
@[simp] theorem State.guardReads_vint (s : State) (ws : ByteWrites) : (s.guardReads ws).vint = s.vint := rfl
@[simp] theorem State.guardReads_exc (s : State) (ws : ByteWrites) : (s.guardReads ws).exc = s.exc := rfl
@[simp] theorem State.guardReads_smCfg (s : State) (ws : ByteWrites) : (s.guardReads ws).smCfg = s.smCfg := rfl
@[simp] theorem State.guardReads_power (s : State) (ws : ByteWrites) : (s.guardReads ws).power = s.power := rfl
@[simp] theorem State.guardReads_health (s : State) (ws : ByteWrites) : (s.guardReads ws).health = s.health := rfl
@[simp] theorem State.guardReads_test (s : State) (ws : ByteWrites) : (s.guardReads ws).test = s.test := rfl
@[simp] theorem State.guardReads_twin (s : State) (ws : ByteWrites) : (s.guardReads ws).twin = s.twin := rfl
@[simp] theorem State.guardReads_tasting (s : State) (ws : ByteWrites) : (s.guardReads ws).tasting = s.tasting := rfl
@[simp] theorem State.guardReads_trace (s : State) (ws : ByteWrites) : (s.guardReads ws).trace = s.trace := rfl
@[simp] theorem State.guardReads_rdata (s : State) (ws : ByteWrites) : (s.guardReads ws).rdata = s.rdata := rfl
@[simp] theorem State.guardReads_rdataLow (s : State) (ws : ByteWrites) : (s.guardReads ws).rdataLow = s.rdataLow := rfl
@[simp] theorem State.guardReads_pmOut (s : State) (ws : ByteWrites) : (s.guardReads ws).pmOut = s.pmOut := rfl
@[simp] theorem State.guardReads_twinOut (s : State) (ws : ByteWrites) : (s.guardReads ws).twinOut = s.twinOut := rfl
@[simp] theorem State.guardReads_free (s : State) (ws : ByteWrites) : (s.guardReads ws).free = s.free := rfl
@[simp] theorem State.guardReads_pending (s : State) (ws : ByteWrites) : (s.guardReads ws).pending = s.pending := rfl

/-! ### What the updates change -/

@[simp] theorem State.withLog_hdr (s : State) (h : Vector PageHdr (2 ^ 4)) (tr : Trace) : (s.withLog h tr).hdr = h := rfl

@[simp] theorem State.withLog_trace (s : State) (h : Vector PageHdr (2 ^ 4)) (tr : Trace) : (s.withLog h tr).trace = tr := rfl

@[simp] theorem State.withLog_withLog (s : State) (h k : Vector PageHdr (2 ^ 4)) (tr ur : Trace) :
    (s.withLog h tr).withLog k ur = s.withLog k ur := rfl

@[simp] theorem State.withLog_self (s : State) : s.withLog s.hdr s.trace = s := rfl

@[simp] theorem State.withLog_ctx (s : State) (h : Vector PageHdr (2 ^ 4)) (tr : Trace) (b : Bool) :
    (s.withLog h tr).ctx b = s.ctx b := rfl

@[simp] theorem State.withLog_guest (s : State) (h : Vector PageHdr (2 ^ 4)) (tr : Trace) (g : GuestId) :
    (s.withLog h tr).guest g = s.guest g := rfl

@[simp] theorem State.updHdr_hdr (s : State) (p : PageId) (f : PageHdr → PageHdr) :
    (s.updHdr p f).hdr = vPut s.hdr p (f (vAt s.hdr p)) := rfl

@[simp] theorem State.updGuest_guests (s : State) (g : GuestId) (f : Guest → Guest) :
    (s.updGuest g f).guests = vPut s.guests g (f (vAt s.guests g)) := rfl

@[simp] theorem State.setEngine_engines (s : State) (e : EngineId) (x : Engine) : (s.setEngine e x).engines = vPut s.engines e x := rfl

@[simp] theorem State.updGuest_guest_self (s : State) (g : GuestId) (f : Guest → Guest) : (s.updGuest g f).guest g = f (s.guest g) := by
  simp [State.guest]

theorem State.updGuest_guest_ne (s : State) {g k : GuestId} (f : Guest → Guest) (h : k ≠ g) :
    (s.updGuest g f).guest k = s.guest k := by
  simp [State.guest, vAt_vPut_ne _ _ h]

@[simp] theorem State.setCtx_ctx_self (s : State) (b : Bool) (x : Option Ctx) : (s.setCtx b x).ctx b = x := by
  cases b <;> rfl

@[simp] theorem State.setCtx_ctx_not (s : State) (b : Bool) (x : Option Ctx) : (s.setCtx b x).ctx (!b) = s.ctx (!b) := by
  cases b <;> rfl

@[simp] theorem State.updHdr_ctx (s : State) (p : PageId) (f : PageHdr → PageHdr) (b : Bool) : (s.updHdr p f).ctx b = s.ctx b := rfl

@[simp] theorem State.updGuest_ctx (s : State) (g : GuestId) (f : Guest → Guest) (b : Bool) : (s.updGuest g f).ctx b = s.ctx b := rfl

@[simp] theorem State.setEngine_ctx (s : State) (e : EngineId) (x : Engine) (b : Bool) : (s.setEngine e x).ctx b = s.ctx b := rfl

@[simp] theorem State.guardReads_ctx (s : State) (ws : ByteWrites) (b : Bool) : (s.guardReads ws).ctx b =
    (s.ctx b).map fun c => { c with before := replacedBytes s.mem ws ++ c.before } := by cases b <;> rfl

@[simp] theorem State.guardReads_guest (s : State) (ws : ByteWrites) (g : GuestId) : (s.guardReads ws).guest g = s.guest g := rfl

@[simp] theorem State.updHdr_guest (s : State) (p : PageId) (f : PageHdr → PageHdr) (g : GuestId) :
    (s.updHdr p f).guest g = s.guest g := rfl

@[simp] theorem State.setCtx_guest (s : State) (b : Bool) (x : Option Ctx) (g : GuestId) : (s.setCtx b x).guest g = s.guest g := by
  cases b <;> rfl

@[simp] theorem State.setEngine_guest (s : State) (e : EngineId) (x : Engine) (g : GuestId) : (s.setEngine e x).guest g = s.guest g := rfl

@[simp] theorem State.setEngine_engine_self (s : State) (e : EngineId) (x : Engine) : (s.setEngine e x).engine e = x := by
  simp [State.engine]

theorem State.setEngine_engine_ne (s : State) {e k : EngineId} (x : Engine) (h : k ≠ e) : (s.setEngine e x).engine k = s.engine k := by
  simp [State.engine, vAt_vPut_ne _ _ h]

end Machine

end Sys2Proof
end

