-- ==== Sys2Proof/Laws/Memory.lean ====
section
/-! SUPPORT. Scratchpad memory: reads after writes, writes leave the other bytes, and every memory operation keeps the canonical form. -/

namespace Sys2Proof.Machine

/-! ### The canonical form -/

theorem memWfFrom_mono {m : List Host.Cell} {lo lo' : Nat} (h : lo' ≤ lo) (hm : memWfFrom lo m = true) : memWfFrom lo' m = true := by
  cases m with
  | nil => rfl
  | cons c t =>
    obtain ⟨k, v⟩ := c
    simp only [memWfFrom, Bool.and_eq_true, decide_eq_true_eq] at hm ⊢
    exact ⟨⟨by omega, hm.1.2⟩, hm.2⟩

theorem memDrop_wfFrom {m : List Host.Cell} {lo a : Nat} (hm : memWfFrom lo m = true) : memWfFrom lo (memDrop m a) = true := by
  induction m generalizing lo with
  | nil => exact hm
  | cons c t ih =>
    obtain ⟨k, v⟩ := c
    simp only [memWfFrom, Bool.and_eq_true, decide_eq_true_eq] at hm
    unfold memDrop
    split
    · exact memWfFrom_mono (by omega) hm.2
    · simp only [memWfFrom, Bool.and_eq_true, decide_eq_true_eq]
      exact ⟨hm.1, ih hm.2⟩

theorem memInsert_wfFrom {m : List Host.Cell} {lo a : Nat} {b : Byte} (hm : memWfFrom lo m = true) (ha : lo ≤ a)
    (hb : b ≠ memDefault) : memWfFrom lo (memInsert m a b) = true := by
  induction m generalizing lo with
  | nil => simp [memInsert, memWfFrom, ha, hb]
  | cons c t ih =>
    obtain ⟨k, v⟩ := c
    simp only [memWfFrom, Bool.and_eq_true, decide_eq_true_eq] at hm
    unfold memInsert
    split
    · simp only [memWfFrom, Bool.and_eq_true, decide_eq_true_eq]
      exact ⟨⟨ha, hb⟩, ⟨by omega, hm.1.2⟩, hm.2⟩
    · split
      · next h =>
        simp only [memWfFrom, Bool.and_eq_true, decide_eq_true_eq]
        exact ⟨⟨ha, hb⟩, h ▸ hm.2⟩
      · simp only [memWfFrom, Bool.and_eq_true, decide_eq_true_eq]
        exact ⟨hm.1, ih hm.2 (by omega)⟩

theorem memPut_wf {m : List Host.Cell} {a : Nat} {b : Byte} (hm : Memory.wf m = true) : Memory.wf (memPut m a b) = true := by
  unfold memPut
  split
  · exact memDrop_wfFrom hm
  · next h => exact memInsert_wfFrom hm (Nat.zero_le a) h

theorem memPutNat_wf {m : List Host.Cell} {a v : Nat} (n : Nat) (hm : Memory.wf m = true) : Memory.wf (memPutNat m a v n) = true := by
  induction n generalizing m a v with
  | zero => exact hm
  | succ n ih => exact ih (memPut_wf hm)

theorem memPutWords_wf {m : List Host.Cell} {a : Nat} (l : List Word) (hm : Memory.wf m = true) :
    Memory.wf (memPutWords m a l) = true := by
  induction l generalizing m a with
  | nil => exact hm
  | cons w t ih => exact ih (memPutNat_wf 4 hm)

theorem memScramble_wf {m : List Host.Cell} {d a : Nat} (n : Nat) (hm : Memory.wf m = true) :
    Memory.wf (memScramble m d a n) = true := by
  induction n generalizing m d a with
  | zero => exact hm
  | succ n ih => exact ih (memPut_wf hm)

theorem memMix_wf {m : List Host.Cell} {d a : Nat} (l : List Byte) (hm : Memory.wf m = true) : Memory.wf (memMix m d a l) = true := by
  induction l generalizing m d a with
  | nil => exact hm
  | cons b t ih =>
    unfold memMix
    split
    · exact ih (memPut_wf hm)
    · exact ih hm

theorem putBytes_wf {m : List Host.Cell} (l : ByteWrites) (hm : Memory.wf m = true) : Memory.wf (putBytes m l) = true := by
  unfold putBytes
  induction l generalizing m with
  | nil => exact hm
  | cons w t ih => exact ih (memPut_wf hm)

/-! ### Reads after writes -/

theorem memByte_below {m : List Host.Cell} {lo a : Nat} (hm : memWfFrom lo m = true) (ha : a < lo) : memByte m a = memDefault := by
  induction m generalizing lo with
  | nil => rfl
  | cons c t ih =>
    obtain ⟨k, v⟩ := c
    simp only [memWfFrom, Bool.and_eq_true, decide_eq_true_eq] at hm
    unfold memByte
    rw [if_neg (by omega)]
    exact ih hm.2 (by omega)

theorem memByte_memDrop_ne {m : List Host.Cell} {a b : Nat} (h : b ≠ a) : memByte (memDrop m a) b = memByte m b := by
  induction m with
  | nil => rfl
  | cons c t ih =>
    obtain ⟨k, v⟩ := c
    unfold memDrop
    split
    · next e => simp [memByte, e, Ne.symm h]
    · simp [memByte, ih]

theorem memByte_memInsert_ne {m : List Host.Cell} {a b : Nat} {x : Byte} (h : b ≠ a) : memByte (memInsert m a x) b = memByte m b := by
  induction m with
  | nil => simp [memInsert, memByte, Ne.symm h]
  | cons c t ih =>
    obtain ⟨k, v⟩ := c
    unfold memInsert
    split
    · simp [memByte, Ne.symm h]
    · split
      · next e => simp [memByte, e, Ne.symm h]
      · simp [memByte, ih]

/-- A write leaves every other byte, whatever form the memory has. -/
theorem memByte_memPut_ne {m : List Host.Cell} {a b : Nat} {x : Byte} (h : b ≠ a) : memByte (memPut m a x) b = memByte m b := by
  unfold memPut
  split
  · exact memByte_memDrop_ne h
  · exact memByte_memInsert_ne h

theorem memByte_memDrop_self {m : List Host.Cell} {lo a : Nat} (hm : memWfFrom lo m = true) : memByte (memDrop m a) a = memDefault := by
  induction m generalizing lo with
  | nil => rfl
  | cons c t ih =>
    obtain ⟨k, v⟩ := c
    simp only [memWfFrom, Bool.and_eq_true, decide_eq_true_eq] at hm
    unfold memDrop
    split
    · next e => exact memByte_below hm.2 (by omega)
    · next e => simp [memByte, e, ih hm.2]

theorem memByte_memInsert_self {m : List Host.Cell} {a : Nat} {x : Byte} : memByte (memInsert m a x) a = x := by
  induction m with
  | nil => simp [memInsert, memByte]
  | cons c t ih =>
    obtain ⟨k, v⟩ := c
    unfold memInsert
    split
    · simp [memByte]
    · split
      · simp [memByte]
      · next e => simp [memByte, e, ih]

/-- A byte reads as it was last written. -/
theorem memByte_memPut_self {m : List Host.Cell} {a : Nat} {x : Byte} (hm : Memory.wf m = true) : memByte (memPut m a x) a = x := by
  unfold memPut
  split
  · next e => rw [e]; exact memByte_memDrop_self hm
  · exact memByte_memInsert_self

/-- One byte after one write. -/
theorem memByte_memPut {m : List Host.Cell} {a b : Nat} {x : Byte} (hm : Memory.wf m = true) :
    memByte (memPut m a x) b = if b = a then x else memByte m b := by
  split
  · next h => rw [h]; exact memByte_memPut_self hm
  · next h => exact memByte_memPut_ne h

/-! ### Writes of several bytes -/

theorem memByte_memPutNat_out {m : List Host.Cell} {a v b : Nat} (n : Nat) (h : b < a ∨ a + n ≤ b) :
    memByte (memPutNat m a v n) b = memByte m b := by
  induction n generalizing m a v with
  | zero => rfl
  | succ n ih =>
    unfold memPutNat
    rw [ih (by omega)]
    exact memByte_memPut_ne (by omega)

theorem memByte_memPutNat_in {m : List Host.Cell} {a v : Nat} (n k : Nat) (hm : Memory.wf m = true) (hk : k < n) :
    memByte (memPutNat m a v n) (a + k) = BitVec.ofNat 8 (v / 256 ^ k) := by
  induction n generalizing m a v k with
  | zero => omega
  | succ n ih =>
    unfold memPutNat
    cases k with
    | zero => rw [memByte_memPutNat_out n (by omega)]; simpa using memByte_memPut_self hm
    | succ k =>
      have := ih (m := memPut m a (BitVec.ofNat 8 v)) (a := a + 1) (v := v / 256) k (memPut_wf hm) (by omega)
      rw [show a + (k + 1) = a + 1 + k by omega, this, Nat.div_div_eq_div_mul, Nat.pow_succ, Nat.mul_comm]

theorem memByte_memPutWords_out {m : List Host.Cell} {a b : Nat} (l : List Word) (h : b < a ∨ a + 4 * l.length ≤ b) :
    memByte (memPutWords m a l) b = memByte m b := by
  induction l generalizing m a with
  | nil => rfl
  | cons w t ih =>
    simp only [List.length_cons] at h
    unfold memPutWords
    rw [ih (by omega)]
    exact memByte_memPutNat_out 4 (by omega)

theorem memByte_memScramble_out {m : List Host.Cell} {d a b : Nat} (n : Nat) (h : b < a ∨ a + n ≤ b) :
    memByte (memScramble m d a n) b = memByte m b := by
  induction n generalizing m d a with
  | zero => rfl
  | succ n ih =>
    unfold memScramble
    rw [ih (by omega)]
    exact memByte_memPut_ne (by omega)

theorem memByte_memMix_out {m : List Host.Cell} {d a b : Nat} (l : List Byte) (h : b < a ∨ a + l.length ≤ b) :
    memByte (memMix m d a l) b = memByte m b := by
  induction l generalizing m d a with
  | nil => rfl
  | cons x t ih =>
    simp only [List.length_cons] at h
    unfold memMix
    rw [ih (by omega)]
    split
    · exact memByte_memPut_ne (by omega)
    · rfl

theorem memByte_putBytes_out {m : List Host.Cell} {b : Nat} (l : ByteWrites) (h : ∀ w ∈ l, w.1 ≠ b) :
    memByte (putBytes m l) b = memByte m b := by
  unfold putBytes
  induction l generalizing m with
  | nil => rfl
  | cons w t ih =>
    simp only [List.foldl_cons]
    rw [ih fun x hx => h x (List.mem_cons_of_mem _ hx)]
    exact memByte_memPut_ne fun e => h w (List.mem_cons_self ..) e.symm

/-- What the writes of a list leave of one byte, in their order. -/
def byteAfter (x : Byte) (a : Nat) (l : ByteWrites) : Byte :=
  l.foldl (fun x w => if w.1 = a then mergeByte x w.2.1 w.2.2 else x) x

/-- One byte after the writes of a list. -/
theorem memByte_putBytes {m : List Host.Cell} (l : ByteWrites) (a : Nat) (hm : Memory.wf m = true) :
    memByte (putBytes m l) a = byteAfter (memByte m a) a l := by
  unfold putBytes byteAfter
  induction l generalizing m with
  | nil => rfl
  | cons w t ih =>
    simp only [List.foldl_cons]
    rw [ih (memPut_wf hm), memByte_memPut hm]
    by_cases h : a = w.1
    · simp [h]
    · simp [h, Ne.symm h]

/-- Some write of the list is of bit i of the byte. -/
def touches (l : ByteWrites) (a i : Nat) : Bool := l.any fun w => w.1 == a && w.2.1.getLsbD i

theorem mergeByte_bit (x mask data : Byte) (i : Nat) :
    (mergeByte x mask data).getLsbD i = if mask.getLsbD i then data.getLsbD i else x.getLsbD i := by
  simp only [mergeByte, BitVec.getLsbD_or, BitVec.getLsbD_and, BitVec.getLsbD_not]
  by_cases h : i < 8
  · cases mask.getLsbD i <;> simp [h]
  · have ge (y : Byte) : y.getLsbD i = false := BitVec.getLsbD_of_ge y i (by omega)
    simp [ge, h]

/-- A bit that no write touches stays. -/
theorem byteAfter_bit_out {a i : Nat} (l : ByteWrites) (x : Byte) (h : touches l a i = false) :
    (byteAfter x a l).getLsbD i = x.getLsbD i := by
  unfold byteAfter
  induction l generalizing x with
  | nil => rfl
  | cons w t ih =>
    simp only [touches, List.any_cons, Bool.or_eq_false_iff] at h
    simp only [List.foldl_cons]
    rw [ih _ h.2]
    split
    · next e => simp only [mergeByte_bit]; simp_all
    · rfl

/-- A replaced bit is as it was; the others stay. -/
theorem byteAfter_bit_replaced (m : List Host.Cell) {a i : Nat} (l : ByteWrites) (x : Byte) :
    (byteAfter x a (replacedBytes m l)).getLsbD i = if touches l a i then (memByte m a).getLsbD i else x.getLsbD i := by
  unfold byteAfter
  induction l generalizing x with
  | nil => rfl
  | cons w t ih =>
    have hd : touches (w :: t) a i = (w.1 == a && w.2.1.getLsbD i || touches t a i) := rfl
    simp only [replacedBytes, List.map_cons, List.foldl_cons] at ih ⊢
    rw [ih, hd]
    by_cases h : touches t a i = true
    · simp [h]
    · by_cases e : w.1 = a
      · subst e; simp [h, mergeByte_bit]
      · simp [h, e]

/-- What a list of writes replaces, written back, leaves a byte as it was before them. -/
theorem byteAfter_replaced (m : List Host.Cell) (l : ByteWrites) (a : Nat) :
    byteAfter (byteAfter (memByte m a) a l) a (replacedBytes m l) = memByte m a := by
  apply BitVec.eq_of_getLsbD_eq
  intro i _
  rw [byteAfter_bit_replaced]
  split
  · rfl
  · next h => exact byteAfter_bit_out l _ (by simpa using h)

/-- What an itinerary in execution reads is the same before and after writes that its reads are guarded from (R6, R14). -/
theorem guardReads_readView (s : State) (ws : ByteWrites) (c : Ctx) (a : Nat) (hm : MemInv s) :
    memByte (readView { s.guardReads ws with mem := putBytes s.mem ws } { c with before := replacedBytes s.mem ws ++ c.before }) a =
      memByte (readView s c) a := by
  have h := byteAfter_replaced s.mem ws a
  simp only [readView, memByte_putBytes _ a hm, memByte_putBytes _ a (putBytes_wf ws hm)]
  simp only [byteAfter, List.foldl_append] at h ⊢
  rw [h]

/-- The zeros of a merge lie in its groups. -/
theorem zeroWrites_group {sp : Nat → Byte} {l : List Nat} {w : Nat × Byte × Byte} (hw : w ∈ zeroWrites sp l) : w.1 / 8 ∈ l := by
  simp only [zeroWrites, List.mem_flatten, List.mem_map] at hw
  obtain ⟨_, ⟨g, hg, rfl⟩, hw⟩ := hw
  obtain ⟨k, hk, rfl⟩ := List.mem_map.1 hw
  have := List.mem_range.1 hk
  simpa [show (8 * g + k) / 8 = g by omega] using hg

theorem ownsByte_iff {r : Record} {a : Nat} : ownsByte r a = true ↔ ∃ x ∈ outAreas r, x.lo ≤ a ∧ a < x.hi := by
  simp [ownsByte]

/-- A bit is covered exactly where some write is of it. -/
theorem coverOf_bit (ws : ByteWrites) (a k : Nat) : (coverOf ws a).getLsbD k = touches ws a k := by
  have h (m : Byte) : (ws.foldl (fun m w => if w.1 = a then m ||| w.2.1 else m) m).getLsbD k = (m.getLsbD k || touches ws a k) := by
    induction ws generalizing m with
    | nil => simp [touches]
    | cons w t ih =>
      simp only [List.foldl_cons, ih, touches, List.any_cons]
      by_cases e : w.1 = a
      · simp [e, Bool.or_assoc]
      · simp [e, beq_false_of_ne e]
  simpa [coverOf] using h 0

/-- A unit writes its bytes, and zeros in its poisoned groups (R13, R19). -/
theorem unitWrites_mem {s : State} {u : WUnit} {w : Nat × Byte × Byte} (hw : w ∈ unitWrites s u) :
    w ∈ u.bytes ∨ w.1 / 8 ∈ poisonedGroups s u := (List.mem_append.1 hw).symm.imp_right zeroWrites_group

/-- A bit is spared exactly where an earlier unit of the itinerary has written it, or where its group is merged already and it lies beside the
itinerary's areas. -/
theorem sparedBits_bit {s : State} {b : Bool} {a k : Nat} (hk : k < 8) : (sparedBits s b a).getLsbD k = true ↔
    (∃ c, s.ctx b = some c ∧ ∃ w ∈ c.covered, w.1 = a ∧ w.2.1.getLsbD k = true) ∨
      a / 8 ∈ s.merged ∧ ∀ c, s.ctx b = some c → ∀ x ∈ outAreas c.it, ¬(x.lo ≤ a ∧ a < x.hi) := by
  have full : ∀ k, k < 8 → (0xFF#8).getLsbD k = true := by decide
  rcases hc : s.ctx b with _ | c
  · by_cases hm : a / 8 ∈ s.merged <;> simp [sparedBits, hc, hm, full k hk, coverOf]
  · have ht : touches c.covered a k = true ↔ ∃ w ∈ c.covered, w.1 = a ∧ w.2.1.getLsbD k = true := by simp [touches]
    have ho : ownsByte c.it a = false ↔ ∀ x ∈ outAreas c.it, ¬(x.lo ≤ a ∧ a < x.hi) := by simp [ownsByte]
    simp only [Option.some.injEq, exists_eq_left', forall_eq', ← ht, ← ho, ← coverOf_bit]
    unfold sparedBits
    by_cases hm : a / 8 ∈ s.merged <;> cases h : ownsByte c.it a <;> simp [hc, hm, h, full k hk]

/-! ### Words -/

/-- Four bytes that hold a word read as it. -/
theorem memWord_eq {m : List Host.Cell} {a : Nat} {w : Word} (h : ∀ k, k < 4 → memByte m (a + k) = BitVec.ofNat 8 (w.toNat / 256 ^ k)) :
    memWord m a = w := by
  have h0 := h 0 (by omega)
  have h1 := h 1 (by omega)
  have h2 := h 2 (by omega)
  have h3 := h 3 (by omega)
  apply BitVec.eq_of_toNat_eq
  have hw := w.isLt
  simp only [memWord, memNat, Nat.add_zero, show a + 1 + 1 = a + 2 by omega, show a + 2 + 1 = a + 3 by omega] at *
  simp only [h0, h1, h2, h3, BitVec.toNat_ofNat]
  omega

theorem memWord_congr {m m' : List Host.Cell} {a : Nat} (h : ∀ k, k < 4 → memByte m' (a + k) = memByte m (a + k)) :
    memWord m' a = memWord m a := by
  have h0 := h 0 (by omega)
  have h1 := h 1 (by omega)
  have h2 := h 2 (by omega)
  have h3 := h 3 (by omega)
  simp only [memWord, memNat, Nat.add_zero, show a + 1 + 1 = a + 2 by omega, show a + 2 + 1 = a + 3 by omega] at *
  simp only [h0, h1, h2, h3]

/-- The words of a list, once written, read back. -/
theorem memWord_memPutWords {m : List Host.Cell} {a : Nat} (l : List Word) (hm : Memory.wf m = true) (i : Nat) (hi : i < l.length) :
    memWord (memPutWords m a l) (a + 4 * i) = l[i] := by
  induction l generalizing m a i with
  | nil => simp at hi
  | cons w t ih =>
    unfold memPutWords
    cases i with
    | zero =>
      rw [memWord_congr (m := memPutNat m a w.toNat 4) fun k hk => memByte_memPutWords_out t (by omega)]
      exact memWord_eq fun k hk => by simpa using memByte_memPutNat_in 4 k hm hk
    | succ i =>
      have := ih (m := memPutNat m a w.toNat 4) (a := a + 4) (memPutNat_wf 4 hm) i (by simpa using hi)
      rw [show a + 4 * (i + 1) = a + 4 + 4 * i by omega]
      simpa using this

end Sys2Proof.Machine
end

