-- ==== Sys2Proof/Laws/Frames.lean ====
section
/-! SUPPORT. What each shared operation does, once: which fields it may change and what it leaves in them. -/

namespace Sys2Proof.Machine

/-! ### What only grows -/

theorem CausesGrow.refl (a : PageHdr) : CausesGrow a a := by simp [CausesGrow]

theorem CausesGrow.trans {a b c : PageHdr} (h : CausesGrow a b) (k : CausesGrow b c) : CausesGrow a c := by
  obtain ⟨h1, h2⟩ := h
  obtain ⟨k1, k2⟩ := k
  refine ⟨?_, ?_⟩
  · have e : { c with istat := a.istat } = { { c with istat := b.istat } with istat := a.istat } := rfl
    rw [e, k1, h1]
  · rw [← h2, BitVec.and_assoc, k2]

/-- A cause that is set stays set. -/
theorem CausesGrow.bit {a b : PageHdr} (h : CausesGrow a b) {i : Nat} (k : a.istat.getLsbD i = true) : b.istat.getLsbD i = true := by
  have := congrArg (BitVec.getLsbD · i) h.2
  simpa [k] using this

theorem HeadersGrow.refl (s : State) : HeadersGrow s s := fun _ => CausesGrow.refl _

theorem HeadersGrow.trans {s t u : State} (h : HeadersGrow s t) (k : HeadersGrow t u) : HeadersGrow s u := fun p => (h p).trans (k p)

theorem HeadersGrow.of_eq {s t : State} (h : t.hdr = s.hdr) : HeadersGrow s t := fun p => by rw [h]; exact CausesGrow.refl _

theorem TraceGrows.refl (s : State) : TraceGrows s s := ⟨rfl, List.prefix_refl _, Nat.le_refl _⟩

theorem TraceGrows.of_eq {s t : State} (h : t.trace = s.trace) : TraceGrows s t := by
  unfold TraceGrows
  rw [h]
  exact TraceGrows.refl s

theorem TraceGrows.trans {s t u : State} (h : TraceGrows s t) (k : TraceGrows t u) : TraceGrows s u := by
  obtain ⟨h1, h2, h3⟩ := h
  obtain ⟨k1, k2, k3⟩ := k
  refine ⟨?_, h2.trans k2, by omega⟩
  have e : { u.trace with queue := s.trace.queue, lost := s.trace.lost } =
      { { u.trace with queue := t.trace.queue, lost := t.trace.lost } with queue := s.trace.queue, lost := s.trace.lost } := rfl
  rw [e, k1, h1]

theorem satAdd_le (c : Word) (n : Nat) : c.toNat ≤ (satAdd c n).toNat := by
  have := c.isLt
  unfold satAdd
  rw [BitVec.toNat_ofNat, Nat.mod_eq_of_lt (by omega)]
  omega

/-- Between two states only causes and trace events were added. -/
structure OnlyLog (s t : State) : Prop where
  eq : t = s.withLog t.hdr t.trace
  headers : HeadersGrow s t
  events : TraceGrows s t

theorem OnlyLog.refl (s : State) : OnlyLog s s := ⟨rfl, .refl _, .refl _⟩

theorem OnlyLog.trans {s t u : State} (h : OnlyLog s t) (k : OnlyLog t u) : OnlyLog s u := by
  refine ⟨?_, h.headers.trans k.headers, h.events.trans k.events⟩
  have e := k.eq
  rw [h.eq, State.withLog_withLog] at e
  exact e

/-- The frame as the statements write it. -/
theorem OnlyLog.frame {s t : State} (h : OnlyLog s t) : { t with hdr := s.hdr, trace := s.trace } = s := by rw [h.eq]; rfl

/-! ### The fields that adding to the log leaves -/

theorem OnlyLog.unit {s t : State} (h : OnlyLog s t) : t.unit = s.unit := by rw [h.eq]; rfl
theorem OnlyLog.resetCause {s t : State} (h : OnlyLog s t) : t.resetCause = s.resetCause := by rw [h.eq]; rfl
theorem OnlyLog.faultCause {s t : State} (h : OnlyLog s t) : t.faultCause = s.faultCause := by rw [h.eq]; rfl
theorem OnlyLog.retention {s t : State} (h : OnlyLog s t) : t.retention = s.retention := by rw [h.eq]; rfl
theorem OnlyLog.resetN {s t : State} (h : OnlyLog s t) : t.resetN = s.resetN := by rw [h.eq]; rfl
theorem OnlyLog.vddMv {s t : State} (h : OnlyLog s t) : t.vddMv = s.vddMv := by rw [h.eq]; rfl
theorem OnlyLog.initRun {s t : State} (h : OnlyLog s t) : t.initRun = s.initRun := by rw [h.eq]; rfl
theorem OnlyLog.oscDone {s t : State} (h : OnlyLog s t) : t.oscDone = s.oscDone := by rw [h.eq]; rfl
theorem OnlyLog.upTicks {s t : State} (h : OnlyLog s t) : t.upTicks = s.upTicks := by rw [h.eq]; rfl
theorem OnlyLog.guests {s t : State} (h : OnlyLog s t) : t.guests = s.guests := by rw [h.eq]; rfl
theorem OnlyLog.done {s t : State} (h : OnlyLog s t) : t.done = s.done := by rw [h.eq]; rfl
theorem OnlyLog.ready {s t : State} (h : OnlyLog s t) : t.ready = s.ready := by rw [h.eq]; rfl
theorem OnlyLog.arbPtr {s t : State} (h : OnlyLog s t) : t.arbPtr = s.arbPtr := by rw [h.eq]; rfl
theorem OnlyLog.arbCredit {s t : State} (h : OnlyLog s t) : t.arbCredit = s.arbCredit := by rw [h.eq]; rfl
theorem OnlyLog.cur {s t : State} (h : OnlyLog s t) : t.cur = s.cur := by rw [h.eq]; rfl
theorem OnlyLog.entries {s t : State} (h : OnlyLog s t) : t.entries = s.entries := by rw [h.eq]; rfl
theorem OnlyLog.ctx0 {s t : State} (h : OnlyLog s t) : t.ctx0 = s.ctx0 := by rw [h.eq]; rfl
theorem OnlyLog.ctx1 {s t : State} (h : OnlyLog s t) : t.ctx1 = s.ctx1 := by rw [h.eq]; rfl
theorem OnlyLog.exec0 {s t : State} (h : OnlyLog s t) : t.exec0 = s.exec0 := by rw [h.eq]; rfl
theorem OnlyLog.exec1 {s t : State} (h : OnlyLog s t) : t.exec1 = s.exec1 := by rw [h.eq]; rfl
theorem OnlyLog.exIdx0 {s t : State} (h : OnlyLog s t) : t.exIdx0 = s.exIdx0 := by rw [h.eq]; rfl
theorem OnlyLog.exIdx1 {s t : State} (h : OnlyLog s t) : t.exIdx1 = s.exIdx1 := by rw [h.eq]; rfl
theorem OnlyLog.engines {s t : State} (h : OnlyLog s t) : t.engines = s.engines := by rw [h.eq]; rfl
theorem OnlyLog.wfifo {s t : State} (h : OnlyLog s t) : t.wfifo = s.wfifo := by rw [h.eq]; rfl
theorem OnlyLog.mem {s t : State} (h : OnlyLog s t) : t.mem = s.mem := by rw [h.eq]; rfl
theorem OnlyLog.poison {s t : State} (h : OnlyLog s t) : t.poison = s.poison := by rw [h.eq]; rfl
theorem OnlyLog.merged {s t : State} (h : OnlyLog s t) : t.merged = s.merged := by rw [h.eq]; rfl
theorem OnlyLog.overlays {s t : State} (h : OnlyLog s t) : t.overlays = s.overlays := by rw [h.eq]; rfl
theorem OnlyLog.ovSel {s t : State} (h : OnlyLog s t) : t.ovSel = s.ovSel := by rw [h.eq]; rfl
theorem OnlyLog.ovWin {s t : State} (h : OnlyLog s t) : t.ovWin = s.ovWin := by rw [h.eq]; rfl
theorem OnlyLog.ovBad {s t : State} (h : OnlyLog s t) : t.ovBad = s.ovBad := by rw [h.eq]; rfl
theorem OnlyLog.cellar {s t : State} (h : OnlyLog s t) : t.cellar = s.cellar := by rw [h.eq]; rfl
theorem OnlyLog.vint {s t : State} (h : OnlyLog s t) : t.vint = s.vint := by rw [h.eq]; rfl
theorem OnlyLog.exc {s t : State} (h : OnlyLog s t) : t.exc = s.exc := by rw [h.eq]; rfl
theorem OnlyLog.smCfg {s t : State} (h : OnlyLog s t) : t.smCfg = s.smCfg := by rw [h.eq]; rfl
theorem OnlyLog.power {s t : State} (h : OnlyLog s t) : t.power = s.power := by rw [h.eq]; rfl
theorem OnlyLog.health {s t : State} (h : OnlyLog s t) : t.health = s.health := by rw [h.eq]; rfl
theorem OnlyLog.test {s t : State} (h : OnlyLog s t) : t.test = s.test := by rw [h.eq]; rfl
theorem OnlyLog.twin {s t : State} (h : OnlyLog s t) : t.twin = s.twin := by rw [h.eq]; rfl
theorem OnlyLog.tasting {s t : State} (h : OnlyLog s t) : t.tasting = s.tasting := by rw [h.eq]; rfl
theorem OnlyLog.rdata {s t : State} (h : OnlyLog s t) : t.rdata = s.rdata := by rw [h.eq]; rfl
theorem OnlyLog.rdataLow {s t : State} (h : OnlyLog s t) : t.rdataLow = s.rdataLow := by rw [h.eq]; rfl
theorem OnlyLog.pmOut {s t : State} (h : OnlyLog s t) : t.pmOut = s.pmOut := by rw [h.eq]; rfl
theorem OnlyLog.twinOut {s t : State} (h : OnlyLog s t) : t.twinOut = s.twinOut := by rw [h.eq]; rfl
theorem OnlyLog.free {s t : State} (h : OnlyLog s t) : t.free = s.free := by rw [h.eq]; rfl
theorem OnlyLog.pending {s t : State} (h : OnlyLog s t) : t.pending = s.pending := by rw [h.eq]; rfl
theorem OnlyLog.ctx {s t : State} (h : OnlyLog s t) (b : Bool) : t.ctx b = s.ctx b := by rw [h.eq]; rfl
theorem OnlyLog.guest {s t : State} (h : OnlyLog s t) (g : GuestId) : t.guest g = s.guest g := by rw [h.eq]; rfl

/-- The frame read backwards. -/
theorem withLog_of_frame {s t : State} (h : { t with hdr := s.hdr, trace := s.trace } = s) : t = s.withLog t.hdr t.trace := by
  have := congrArg (fun x : State => x.withLog t.hdr t.trace) h
  exact this

/-! ### Causes -/

theorem setCause_grows (s : State) (p : PageId) (b : Nat) : HeadersGrow s (setCause s p b) := by
  intro q
  simp only [setCause, State.updHdr_hdr, vAt_vPut]
  split
  · next h =>
    subst h
    refine ⟨rfl, ?_⟩
    apply BitVec.eq_of_getLsbD_eq
    intro i hi
    simp only [BitVec.getLsbD_and, BitVec.getLsbD_or]
    cases BitVec.getLsbD (vAt s.hdr q).istat i <;> simp
  · exact CausesGrow.refl _

theorem setCause_only (s : State) (p : PageId) (b : Nat) : OnlyLog s (setCause s p b) :=
  ⟨rfl, setCause_grows s p b, .of_eq rfl⟩

theorem setCause_bit (s : State) (p : PageId) (b : Nat) (h : b < 16) : (vAt (setCause s p b).hdr p).istat.getLsbD b = true := by
  simp [setCause, h]

theorem setCause_page (s : State) {p q : PageId} (b : Nat) (h : q ≠ p) : vAt (setCause s p b).hdr q = vAt s.hdr q := by
  simp [setCause, vAt_vPut_ne _ _ h]

/-! ### Trace events -/

/-- A trace event changes the queue, the lost count and page 15's causes alone. -/
theorem traceEvent_spec (s : State) (gov : Word) (k : Nat) (e : TrEnt) :
    OnlyLog s (traceEvent s gov k e) ∧ ∀ p, p ≠ 15 → vAt (traceEvent s gov k e).hdr p = vAt s.hdr p := by
  unfold traceEvent
  split
  · split
    · exact ⟨⟨rfl, .of_eq rfl, ⟨rfl, List.prefix_append .., Nat.le_refl _⟩⟩, fun _ _ => rfl⟩
    · refine ⟨⟨rfl, ?_, ⟨rfl, List.prefix_refl _, satAdd_le _ _⟩⟩, fun p hp => setCause_page _ 1 hp⟩
      exact (HeadersGrow.of_eq (t := { s with trace := { s.trace with lost := satAdd s.trace.lost 1 } }) rfl).trans (setCause_grows _ 15 1)
  · exact ⟨.refl _, fun _ _ => rfl⟩

theorem traceBase_spec (s : State) (g k : Nat) (a b : Word) :
    OnlyLog s (traceBase s g k a b) ∧ ∀ p, p ≠ 15 → vAt (traceBase s g k a b).hdr p = vAt s.hdr p := traceEvent_spec ..

/-- What an event does to the trace, exactly (R253). -/
theorem traceEvent_traced (s : State) (gov : Word) (k : Nat) (e : TrEnt) : Traced s (traceEvent s gov k e) gov k e := by
  have hc : (gov.getLsbD 0 && gov.getLsbD (8 + k) && !s.trace.stopped) = true ↔
      gov.getLsbD 0 = true ∧ gov.getLsbD (8 + k) = true ∧ s.trace.stopped = false := by simp [and_assoc]
  unfold traceEvent
  split
  · next h =>
    have on := hc.1 h
    split
    · next hq => exact ⟨rfl, fun _ _ => ⟨rfl, rfl⟩, fun _ hn => absurd hn (by omega), fun hn => absurd on hn⟩
    · next hq => exact ⟨rfl, fun _ hn => absurd hn hq, fun _ _ => ⟨rfl, rfl, setCause_bit _ 15 1 (by decide)⟩, fun hn => absurd on hn⟩
  · next h =>
    have off := fun on => h (hc.2 on)
    exact ⟨rfl, fun on => absurd on off, fun on => absurd on off, fun _ => ⟨rfl, rfl⟩⟩

/-- A trace event never makes the queue longer than 8. -/
theorem traceEvent_queue (s : State) (gov : Word) (k : Nat) (e : TrEnt) (h : TraceInv s) : TraceInv (traceEvent s gov k e) := by
  unfold TraceInv at *
  unfold traceEvent
  split
  · split
    · simp only [List.length_append, List.length_singleton]
      omega
    · exact h
  · exact h

/-! ### Logged events -/

theorem LoggedHere.of_write (a : PageHdr) (code : BitVec 8) (st : BitVec 3) (arg : BitVec 20) :
    LoggedHere a
      (let h := { a with errCnt := satAdd a.errCnt 1, istat := a.istat ||| 0x8000#16 }
       if h.errValid then h else { h with errCode := code, errStatus := st, errArg := arg, errValid := true }) code st arg := by
  have hi : a.istat &&& (a.istat ||| 0x8000#16) = a.istat := by
    apply BitVec.eq_of_getLsbD_eq
    intro i hi
    simp only [BitVec.getLsbD_and, BitVec.getLsbD_or]
    cases BitVec.getLsbD a.istat i <;> simp
  cases hv : a.errValid <;> simp [LoggedHere, hv, hi]

theorem LoggedHere.grow {a b c : PageHdr} {code : BitVec 8} {st : BitVec 3} {arg : BitVec 20} (h : LoggedHere a b code st arg)
    (k : CausesGrow b c) : LoggedHere a c code st arg := by
  obtain ⟨k1, k2⟩ := k
  obtain ⟨h1, h2, h3, h4, h5, h6, h7⟩ := h
  have hc : c = { b with istat := c.istat } := by rw [← k1]
  have bit : c.istat.getLsbD 15 = true := (show CausesGrow b c from ⟨k1, k2⟩).bit h2
  have grow : a.istat &&& c.istat = a.istat := by rw [← h3, BitVec.and_assoc, k2]
  rw [hc]
  exact ⟨h1, bit, grow, h4, h5, h6, h7⟩

/-- A logged event changes its page's log and count, and the trace that records it. -/
theorem logEvent_spec (s : State) (p : PageId) (code : BitVec 8) (st : BitVec 3) (arg : BitVec 20) :
    Logged s (logEvent s p code st arg) p code st arg := by
  unfold logEvent
  obtain ⟨ho, -⟩ := traceBase_spec (s.updHdr p fun h =>
      let h := { h with errCnt := satAdd h.errCnt 1, istat := h.istat ||| 0x8000#16 }
      if h.errValid then h else { h with errCode := code, errStatus := st, errArg := arg, errValid := true })
    6 0x30 (BitVec.ofNat 32 (p.toNat + code.toNat * 2 ^ 8 + st.toNat * 2 ^ 16)) (arg.zeroExtend 32)
  refine ⟨?_, ?_, ?_, ?_⟩
  · dsimp only
    rw [ho.eq]
    rfl
  · exact traceEvent_traced (s.updHdr p _) s.trace.ctrl 6 (logEntry s p code st arg)
  · have := ho.headers p
    rw [State.updHdr_hdr, vAt_vPut_self] at this
    exact (LoggedHere.of_write ..).grow this
  · intro q hq
    have := ho.headers q
    rwa [State.updHdr_hdr, vAt_vPut_ne _ _ hq] at this

/-- As an equation: a logged event changes headers and trace alone. -/
theorem logEvent_eq (s : State) (p : PageId) (code : BitVec 8) (st : BitVec 3) (arg : BitVec 20) :
    logEvent s p code st arg = s.withLog (logEvent s p code st arg).hdr (logEvent s p code st arg).trace :=
  withLog_of_frame (logEvent_spec s p code st arg).1

/-! ### Unit and guest states -/

/-- A change of unit state: the unit, its causes and its event. -/
theorem setUnit_spec (s : State) (u : UnitState) :
    OnlyLog { s with unit := u } (setUnit s u) ∧
    (u = .fault → (vAt (setUnit s u).hdr 0).istat.getLsbD 0 = true) ∧
    (u = .idle → s.unit = .bist ∨ s.unit = .drain → (vAt (setUnit s u).hdr 0).istat.getLsbD 1 = true) := by
  have pass : ∀ x : State, OnlyLog { s with unit := u } x →
      (u = .fault → (vAt x.hdr 0).istat.getLsbD 0 = true) →
      (u = .idle → s.unit = .bist ∨ s.unit = .drain → (vAt x.hdr 0).istat.getLsbD 1 = true) → ∀ a b,
      OnlyLog { s with unit := u } (traceBase x 2 0x10 a b) ∧
      (u = .fault → (vAt (traceBase x 2 0x10 a b).hdr 0).istat.getLsbD 0 = true) ∧
      (u = .idle → s.unit = .bist ∨ s.unit = .drain → (vAt (traceBase x 2 0x10 a b).hdr 0).istat.getLsbD 1 = true) := by
    intro x hx h0 h1 a b
    obtain ⟨ho, hp⟩ := traceBase_spec x 2 0x10 a b
    rw [hp 0 (by decide)]
    exact ⟨hx.trans ho, h0, h1⟩
  unfold setUnit
  by_cases hu : u = .fault
  · have hi : ¬(u = .idle ∧ (s.unit = .bist ∨ s.unit = .drain)) := by simp [hu]
    simp only [if_pos hu, if_neg hi]
    exact pass _ (setCause_only _ 0 0) (fun _ => setCause_bit _ 0 0 (by decide)) (fun a b => absurd ⟨a, b⟩ hi) _ _
  · by_cases hi : u = .idle ∧ (s.unit = .bist ∨ s.unit = .drain)
    · simp only [if_neg hu, if_pos hi]
      exact pass _ (setCause_only _ 0 1) (fun h => absurd h hu) (fun _ _ => setCause_bit _ 0 1 (by decide)) _ _
    · simp only [if_neg hu, if_neg hi]
      exact pass _ (.refl _) (fun h => absurd h hu) (fun a b => absurd ⟨a, b⟩ hi) _ _

/-- The start of a BIST: the unit, its ticks and its marks. -/
theorem enterBist_spec (s : State) (r : Bool) :
    OnlyLog { s with unit := .bist, upTicks := 0, test := { s.test with requested := r, vintErr := none } } (enterBist s r) := by
  unfold enterBist
  exact (setUnit_spec { s with upTicks := 0, test := { s.test with requested := r, vintErr := none } } .bist).1

/-- A change of a guest's state: its field and its event. -/
theorem setGuestState_spec (s : State) (g : GuestId) (st : GuestState) :
    OnlyLog (s.updGuest g fun x => { x with state := st }) (setGuestState s g st) := by
  unfold setGuestState
  exact (traceEvent_spec ..).1

/-- The end of a detach. -/
theorem finishDetach_spec (s : State) (g : GuestId) :
    OnlyLog { s with guests := vPut s.guests g { s.guest g with state := .detached, discard := false, record := none },
                     done := s.done ||| (1#64 <<< g.toNat) } (finishDetach s g) := by
  unfold finishDetach setDone
  have h := setGuestState_spec (s.updGuest g fun x => { x with discard := false, record := none }) g .detached
  refine ⟨?_, h.headers, h.events⟩
  rw [h.eq]
  simp [State.updGuest, State.guest, State.withLog]

/-! ### Instance flags -/

/-- Flags and counters merged: page 8's flags and counters and its FLAG cause. -/
theorem raiseInstance_spec (s : State) (set : BitVec 12) (n : Vector Nat (2 ^ 4)) :
    OnlyLog { s with exc := { s.exc with flags := s.exc.flags ||| set, evCnt := Vector.zipWith satAdd s.exc.evCnt n } }
      (raiseInstance s set n) ∧
    (set &&& s.exc.fmask ≠ 0 → (vAt (raiseInstance s set n).hdr 8).istat.getLsbD 0 = true) := by
  unfold raiseInstance
  dsimp only
  split
  · next h => exact ⟨.refl _, fun k => absurd h k⟩
  · exact ⟨setCause_only _ 8 0, fun _ => setCause_bit _ 8 0 (by decide)⟩

theorem vAt_zipWith {α β γ : Type} {w : Nat} (f : α → β → γ) (u : Vector α (2 ^ w)) (v : Vector β (2 ^ w)) (i : BitVec w) :
    vAt (Vector.zipWith f u v) i = f (vAt u i) (vAt v i) := by
  simp [vAt]

/-! ### Pace and sprint -/

theorem paceFloor_eq (v : BitVec 16) : paceFloor v = max 0x100 v.toNat := by
  unfold paceFloor
  split <;> omega

theorem eq_of_same_lower {x y : Nat} (h : ∀ k, k ≤ x ↔ k ≤ y) : x = y :=
  Nat.le_antisymm ((h x).1 (Nat.le_refl x)) ((h y).2 (Nat.le_refl y))

/-- The effective budget of R213, written out; it fits its register. -/
theorem effBudget_eq (p : Power) : effBudget p ≤ 0xFFFF ∧ effBudget p =
    min (max 0x100 p.winMgr.toNat) (min (max 0x100 p.winCap.toNat)
      (min (if p.rvkPace then p.nombeats.toNat / 2 else 0xFFFF)
        (min (if p.protoPace then p.nombeats.toNat else 0xFFFF) (if p.guardPace then p.nombeats.toNat / 4 else 0xFFFF)))) := by
  have h1 : max 0x100 p.winMgr.toNat ≤ 0xFFFF := by have := p.winMgr.isLt; omega
  simp only [effBudget, paceSources, List.foldl_cons, List.foldl_nil, if_true, paceFloor_eq]
  generalize max 0x100 p.winMgr.toNat = a at *
  generalize max 0x100 p.winCap.toNat = b
  have e : (if p.guardPace = true then min (if p.protoPace = true then min (if p.rvkPace = true then min (min (min 0xFFFF a) b)
        (p.nombeats.toNat / 2) else min (min 0xFFFF a) b) p.nombeats.toNat else if p.rvkPace = true then min (min (min 0xFFFF a) b)
        (p.nombeats.toNat / 2) else min (min 0xFFFF a) b) (p.nombeats.toNat / 4) else if p.protoPace = true then
        min (if p.rvkPace = true then min (min (min 0xFFFF a) b) (p.nombeats.toNat / 2) else min (min 0xFFFF a) b) p.nombeats.toNat
        else if p.rvkPace = true then min (min (min 0xFFFF a) b) (p.nombeats.toNat / 2) else min (min 0xFFFF a) b) =
      min a (min b (min (if p.rvkPace then p.nombeats.toNat / 2 else 0xFFFF)
        (min (if p.protoPace then p.nombeats.toNat else 0xFFFF) (if p.guardPace then p.nombeats.toNat / 4 else 0xFFFF)))) := by
    refine eq_of_same_lower fun k => ?_
    cases p.rvkPace <;> cases p.protoPace <;> cases p.guardPace <;>
      simp only [Bool.false_eq_true, if_true, if_false, Nat.le_min] <;> omega
  rw [e]
  exact ⟨Nat.le_trans (Nat.min_le_left _ _) h1, rfl⟩

/-- The effective budget is refreshed, with its event. -/
theorem setEff_spec (s : State) :
    OnlyLog { s with power := { s.power with eff := BitVec.ofNat 16 (effBudget s.power) } } (setEff s) ∧
    ∀ p, p ≠ 15 → vAt (setEff s).hdr p = vAt s.hdr p := by
  unfold setEff
  dsimp only
  split
  · next h => exact ⟨by rw [h]; exact .refl _, fun _ _ => rfl⟩
  · exact traceBase_spec ..

/-- A budget that is refreshed is the effective budget of its sources. -/
theorem effBudget_budgetIs (p : Power) : BudgetIs { p with eff := BitVec.ofNat 16 (effBudget p) } := by
  obtain ⟨h, e⟩ := effBudget_eq p
  unfold BudgetIs
  rw [BitVec.toNat_ofNat, Nat.mod_eq_of_lt (by omega)]
  exact e

/-- The protocol event of R211, and what else stays. -/
theorem enterUnlicensed_spec (s : State) :
    let p : Power := { s.power with protoPace := true, protoCause := true, proto := satAdd s.power.proto 1 }
    OnlyLog { s with power := { p with eff := BitVec.ofNat 16 (effBudget p) } } (enterUnlicensed s) ∧ Unlicensed s (enterUnlicensed s) := by
  intro p
  obtain ⟨h, hp⟩ := setEff_spec (protocolEvent { s with power := { s.power with protoPace := true, protoCause := true } })
  have g := setCause_only { s with power := p } 10 5
  have o : OnlyLog { s with power := { p with eff := BitVec.ofNat 16 (effBudget p) } } (enterUnlicensed s) :=
    ⟨h.eq, g.headers.trans h.headers, h.events⟩
  refine ⟨o, ?_⟩
  unfold Unlicensed
  rw [o.power]
  refine ⟨rfl, rfl, rfl, effBudget_budgetIs p, ?_, o.headers, o.events⟩
  exact (congrArg (fun a => a.istat.getLsbD 5) (hp 10 (by decide))).trans (setCause_bit _ 10 5 (by decide))

/-- A grant in force ends, with SPRINT_OFF. -/
theorem endGrant_spec (s : State) (r : Nat) :
    OnlyLog { s with power := { s.power with granted := false } } (endGrant s r) ∧
    (s.power.granted = true → (vAt (endGrant s r).hdr 10).istat.getLsbD 1 = true) := by
  unfold endGrant
  split
  · obtain ⟨ho, hp⟩ := traceBase_spec (setCause { s with power := { s.power with granted := false } } 10 1) 4 0x20
      (BitVec.ofNat 32 r) (s.power.vack.zeroExtend 32)
    refine ⟨(setCause_only _ 10 1).trans ho, fun _ => ?_⟩
    have := setCause_bit { s with power := { s.power with granted := false } } 10 1 (by decide)
    rw [← hp 10 (by decide)] at this
    exact this
  · next h =>
    have e : s.power.granted = false := by simpa using h
    refine ⟨?_, fun k => absurd k h⟩
    rw [← e]
    exact .refl _

/-- SPRINT_REQ follows its conditions, and a grant ends with it. -/
theorem updReq_spec (s : State) :
    OnlyLog { s with power := { s.power with sprintReq := sprintWanted s, granted := s.power.granted && sprintWanted s } } (updReq s) ∧
    (s.power.granted = true → sprintWanted s = false → (vAt (updReq s).hdr 10).istat.getLsbD 1 = true) := by
  unfold updReq
  dsimp only
  cases hw : sprintWanted s
  · simp only [Bool.false_eq_true, if_false, Bool.and_false]
    obtain ⟨ho, hb⟩ := endGrant_spec { s with power := { s.power with sprintReq := false } } 2
    exact ⟨ho, fun k _ => hb k⟩
  · simp only [if_true, Bool.and_true]
    exact ⟨.refl _, fun _ k => by simp at k⟩

/-- The clamp of the account set: a grant ends, and the revoke pace applies in the sprint region. -/
def clampPower (p : Power) : Power :=
  { p with clamped := true, rvkPace := p.rvkPace || p.vsprint, rvkCause := p.rvkCause || p.vsprint, granted := false, sprintReq := false }

/-- The conditions of R214 are those that the request follows. -/
theorem sprintWanted_iff (s : State) :
    sprintWanted s = true ↔ s.power.sprintEn = true ∧ s.power.accountOk = true ∧ s.power.clamped = false ∧
      (s.unit = .run ∨ s.unit = .drain) ∧ (s.power.recent = true ∨ s.inExec ≠ 0) ∧ s.power.holdoff = false := by
  simp [sprintWanted, and_assoc]

/-- After updReq, SPRINT_REQ is as its conditions have it, and a grant has ended with it (R214, R215). -/
theorem updReq_judged (s : State) : RequestJudged s (updReq s) := by
  obtain ⟨h, -⟩ := updReq_spec s
  refine ⟨?_, by rw [h.power]⟩
  have hi : (updReq s).inExec = s.inExec := by simp only [State.inExec, h.ctx0, h.ctx1]
  simp only [RequestHolds, h.power, h.unit, hi]
  exact sprintWanted_iff s

/-- The clamp is judged. -/
theorem judgeClamp_spec (s : State) :
    (s.power.sprUsed.toNat < s.power.sprLim.toNat → judgeClamp s = updReq { s with power := { s.power with clamped := false } }) ∧
    (s.power.sprLim.toNat ≤ s.power.sprUsed.toNat → s.power.clamped = true → judgeClamp s = s) ∧
    (s.power.sprLim.toNat ≤ s.power.sprUsed.toNat → s.power.clamped = false →
      (∃ e, OnlyLog { s with power := { clampPower s.power with eff := e } } (judgeClamp s)) ∧
      (vAt (judgeClamp s).hdr 10).istat.getLsbD 2 = true ∧
      (s.power.granted = true → (vAt (judgeClamp s).hdr 10).istat.getLsbD 1 = true)) := by
  refine ⟨fun h => ?_, fun h k => ?_, fun h k => ?_⟩
  · rw [judgeClamp, if_neg (by omega)]
  · rw [judgeClamp, if_pos h, if_pos k]
  · rw [judgeClamp, if_pos h, if_neg (by simp [k])]
    dsimp only
    generalize hp : ({ s.power with clamped := true, rvkPace := s.power.rvkPace || s.power.vsprint,
                                    rvkCause := s.power.rvkCause || s.power.vsprint } : Power) = p
    have h1 := setCause_only { s with power := p } 10 2
    have b1 := setCause_bit { s with power := p } 10 2 (by decide)
    generalize setCause { s with power := p } 10 2 = s1 at h1 b1
    obtain ⟨h2, b2⟩ := endGrant_spec s1 3
    have e2 : (endGrant s1 3).power = { p with granted := false } := by rw [h2.eq, h1.eq]; rfl
    have g2 : CausesGrow (vAt s1.hdr 10) (vAt (endGrant s1 3).hdr 10) := h2.headers 10
    generalize endGrant s1 3 = s2 at h2 b2 e2 g2
    obtain ⟨h3, -⟩ := updReq_spec s2
    have w : sprintWanted s2 = false := by simp [sprintWanted, e2, ← hp]
    rw [w, Bool.and_false] at h3
    have g3 : CausesGrow (vAt s2.hdr 10) (vAt (updReq s2).hdr 10) := h3.headers 10
    generalize updReq s2 = s3 at h3 g3
    obtain ⟨h4, p4⟩ := setEff_spec s3
    have q1 : s1.power = p := by rw [h1.eq]; rfl
    refine ⟨⟨BitVec.ofNat 16 (effBudget s3.power), ?_⟩, ?_, fun hg => ?_⟩
    · refine ⟨?_, ?_, ?_⟩
      · rw [h4.eq, h3.eq, h2.eq, h1.eq, ← hp]
        rfl
      · exact (((h1.headers.trans h2.headers).trans h3.headers).trans h4.headers : HeadersGrow _ _)
      · exact (((h1.events.trans h2.events).trans h3.events).trans h4.events : TraceGrows _ _)
    · rw [p4 10 (by decide)]
      exact (g2.trans g3).bit b1
    · rw [p4 10 (by decide)]
      refine g3.bit (b2 ?_)
      rw [q1, ← hp]
      exact hg

/-! ### Supply readings -/

/-- A reading of VDD_U is kept, and in RESET it judges the start of the initialisation. -/
theorem readSupply_spec (s : State) (mv : BitVec 10) :
    readSupply s mv = { s with vddMv := mv, initRun := if s.unit = .reset then s.resetN && decide (570 ≤ mv.toNat) else s.initRun } := by
  unfold readSupply
  cases s.unit <;> rfl

/-! ### First reads -/

/-- Noting a first read changes nothing but the list of first reads. -/
theorem noteTaken_frame (c : Ctx) (o : Opd) (sc : Bool) (n : Nat) (x : Nat × Bool) :
    { noteTaken c o sc n x with taken := c.taken } = c := by
  unfold noteTaken
  split <;> rfl

/-- What a first read returned stands. -/
theorem firstRead_noteTaken {c : Ctx} {o p : Opd} {sc sd : Bool} {n k : Nat} {t : Taken} (x : Nat × Bool)
    (h : firstRead c o sc n = some t) : firstRead (noteTaken c p sd k x) o sc n = some t := by
  unfold noteTaken
  split
  · exact h
  · next e =>
    have : (p == o && sd == sc && k == n) = false := by
      simp only [Bool.eq_false_iff, ne_eq, Bool.and_eq_true, beq_iff_eq]
      rintro ⟨⟨rfl, rfl⟩, rfl⟩
      rw [e] at h
      cases h
    unfold firstRead at h ⊢
    simp only [List.find?_cons, this]
    exact h

/-- Noting the first reads of an element changes nothing else of the context. -/
theorem noteRead_frame (s : State) (c : Ctx) (o : Opd) (i : Idx) : { noteRead s c o i with taken := c.taken } = c := by
  have two (x : Ctx) (h : { x with taken := c.taken } = c) (sc : Bool) (n : Nat) (y : Nat × Bool) :
      { noteTaken x o sc n y with taken := c.taken } = c := by
    have := noteTaken_frame x o sc n y
    rw [← h]
    generalize noteTaken x o sc n y = z at this
    cases z
    cases x
    simp_all
  unfold noteRead
  dsimp only
  split
  · rfl
  · split
    · exact two _ (noteTaken_frame ..) ..
    · split
      · exact two _ (noteTaken_frame ..) ..
      · exact noteTaken_frame ..

/-- An element that its itinerary has read before: its mark is that of the first read, and so is its code where it is kept. -/
theorem fetch_of_first {s : State} {c : Ctx} {o : Opd} {i : Idx} {t : Taken} (h : firstRead c o false (itemOf c.it o i) = some t) :
    fetch s c o i = (if keepsCode c.it o then t.code else readCode (readView s c) (rDesc c.it o) i, t.poisoned) := by
  simp [fetch, h]

/-- An element that its itinerary reads for the first time. -/
theorem fetch_of_none {s : State} {c : Ctx} {o : Opd} {i : Idx} (h : firstRead c o false (itemOf c.it o i) = none) :
    fetch s c o i = (readCode (readView s c) (rDesc c.it o) i, elemPoisoned s.poison (rDesc c.it o) i) := by
  simp [fetch, h]

/-! ### Accuracy -/

/-- A bounded result meets its bound or is the FP32 value nearest to the reference. -/
theorem withinBound_spec (f tol : XVal) (r : Word) : fits f tol (withinBound f tol r) = true ∨ withinBound f tol r = round32 f := by
  unfold withinBound
  split
  · next h => exact .inl h
  · exact .inr rfl

end Sys2Proof.Machine
end

