-- ==== Sys2Proof/Laws/PerInstr.lean ====
section
/-! SUPPORT. Per command: a well-formed command that writes a register names a word-aligned offset of the 64 kB window (R20). -/

namespace Sys2Proof.Laws.PortAligned

/-- The offset a command writes, where it writes a register, is a multiple of 4. -/
def Statement (i : Instr) : Prop := i.wellFormed = true → ∀ p, i.port = some p → p.1.toNat % 4 = 0

/-- A command that writes no register. -/
theorem of_none {i : Instr} (h : i.port = none) : Statement i := by
  intro _ p hp
  rw [h] at hp
  cases hp

/-- A command whose register stands at one aligned place. -/
theorem of_at {i : Instr} {off : BitVec 16} {v : Word} (h : i.port = some (off, v)) (ha : off.toNat % 4 = 0) : Statement i := by
  intro _ p hp
  rw [h] at hp
  cases hp
  exact ha

/-- An offset of a page is aligned when the page offset is. -/
theorem winOff_aligned (page off : Nat) (h : off % 4 = 0) : (winOff page off).toNat % 4 = 0 := by
  simp only [winOff, BitVec.toNat_ofNat]
  omega

/-- Elements of a word array stand at aligned offsets. -/
theorem offIn_aligned {off base n : Nat} (h : offIn off base n = true) : off % 4 = 0 := by
  simp only [offIn, Bool.and_eq_true, beq_iff_eq] at h
  exact h.2

/-- Registers with W1C bits stand at aligned offsets. -/
theorem hasW1c_aligned {off : Nat} (h : hasW1c off = true) : off % 4 = 0 := by
  simp only [hasW1c, offIn, Bool.and_eq_true, Bool.or_eq_true, beq_iff_eq, decide_eq_true_eq] at h
  omega

theorem run (v : Word) : Statement (.run v) := of_at rfl (by decide)
theorem stop (v : Word) : Statement (.stop v) := of_at rfl (by decide)
theorem hold (v : Word) : Statement (.hold v) := of_at rfl (by decide)
theorem resume (v : Word) : Statement (.resume v) := of_at rfl (by decide)
theorem bist (v : Word) : Statement (.bist v) := of_at rfl (by decide)
theorem softwareReset (v : Word) : Statement (.softwareReset v) := of_at rfl (by decide)
theorem attach (g : GuestId) (v : Word) : Statement (.attach g v) := of_at rfl (winOff_aligned _ _ (by omega))
theorem detachDrain (g : GuestId) (v : Word) : Statement (.detachDrain g v) := of_at rfl (winOff_aligned _ _ (by omega))
theorem detachNow (g : GuestId) (v : Word) : Statement (.detachNow g v) := of_at rfl (winOff_aligned _ _ (by omega))
theorem guestResume (g : GuestId) (v : Word) : Statement (.guestResume g v) := of_at rfl (winOff_aligned _ _ (by omega))
theorem doorbell (g : GuestId) (v : Word) : Statement (.doorbell g v) := of_at rfl (winOff_aligned _ _ (by omega))
theorem gqBaseWrite (g : GuestId) (v : Word) : Statement (.gqBaseWrite g v) := of_at rfl (winOff_aligned _ _ (by omega))
theorem gqCfgWrite (g : GuestId) (v : Word) : Statement (.gqCfgWrite g v) := of_at rfl (winOff_aligned _ _ (by omega))
theorem overlayOpen (v : Word) : Statement (.overlayOpen v) := of_at rfl (by decide)
theorem overlayApply (v : Word) : Statement (.overlayApply v) := of_at rfl (by decide)
theorem overlayDiscard (v : Word) : Statement (.overlayDiscard v) := of_at rfl (by decide)
theorem overlayWindowWrite (off : BitVec 12) (v : Word) : Statement (.overlayWindowWrite off v) := fun h p hp => by
  cases hp
  refine winOff_aligned _ _ ?_
  simp only [Instr.wellFormed, Bool.or_eq_true, beq_iff_eq] at h
  exact h.elim (fun e => by rw [e]; decide) offIn_aligned
theorem tableStage (v : Word) : Statement (.tableStage v) := of_at rfl (by decide)
theorem tableCommit (v : Word) : Statement (.tableCommit v) := of_at rfl (by decide)
theorem tableAbandon (v : Word) : Statement (.tableAbandon v) := of_at rfl (by decide)
theorem tableWindowWrite (w : BitVec 9) (v : Word) : Statement (.tableWindowWrite w v) := of_at rfl (winOff_aligned _ _ (by omega))
theorem setPolicy (v : Word) : Statement (.setPolicy v) := of_at rfl (by decide)
theorem vsClear (v : Word) : Statement (.vsClear v) := of_at rfl (by decide)
theorem vwOpen (v : Word) : Statement (.vwOpen v) := of_at rfl (by decide)
theorem vwApply (v : Word) : Statement (.vwApply v) := of_at rfl (by decide)
theorem vwDiscard (v : Word) : Statement (.vwDiscard v) := of_at rfl (by decide)
theorem vwDataWrite (off : BitVec 12) (v : Word) : Statement (.vwDataWrite off v) := fun h p hp => by
  cases hp
  refine winOff_aligned _ _ ?_
  simp only [Instr.wellFormed, Bool.or_eq_true] at h
  exact h.elim offIn_aligned offIn_aligned
theorem saveSlots (v : Word) : Statement (.saveSlots v) := of_at rfl (by decide)
theorem restoreSlots (v : Word) : Statement (.restoreSlots v) := of_at rfl (by decide)
theorem saveMaps (v : Word) : Statement (.saveMaps v) := of_at rfl (by decide)
theorem restoreMaps (v : Word) : Statement (.restoreMaps v) := of_at rfl (by decide)
theorem transferComplete : Statement (.transferComplete) := of_none rfl
theorem tsClear (v : Word) : Statement (.tsClear v) := of_at rfl (by decide)
theorem tsClearAll (v : Word) : Statement (.tsClearAll v) := of_at rfl (by decide)
theorem tsSave (v : Word) : Statement (.tsSave v) := of_at rfl (by decide)
theorem tsSaveComplete : Statement (.tsSaveComplete) := of_none rfl
theorem errClr (p : PageId) (v : Word) : Statement (.errClr p v) := of_at rfl (winOff_aligned _ _ (by decide))
theorem w1cClear (off : BitVec 16) (v : Word) : Statement (.w1cClear off v) := fun h p hp => by
  cases hp
  exact hasW1c_aligned h
theorem clrLow (v : Word) : Statement (.clrLow v) := of_at rfl (by decide)
theorem hlUsedWrite (v : Word) : Statement (.hlUsedWrite v) := of_at rfl (by decide)
theorem hlLifeWrite (v : Word) : Statement (.hlLifeWrite v) := of_at rfl (by decide)
theorem sprusedWrite (v : Word) : Statement (.sprusedWrite v) := of_at rfl (by decide)
theorem sprlimWrite (v : Word) : Statement (.sprlimWrite v) := of_at rfl (by decide)
theorem pacecapWrite (v : Word) : Statement (.pacecapWrite v) := of_at rfl (by decide)
theorem bundleWrite (v : Word) : Statement (.bundleWrite v) := of_at rfl (by decide)
theorem vreqWrite (v : Word) : Statement (.vreqWrite v) := of_at rfl (by decide)
theorem twCtrlWrite (v : Word) : Statement (.twCtrlWrite v) := of_at rfl (by decide)
theorem trClear (v : Word) : Statement (.trClear v) := of_at rfl (by decide)
theorem trFreeze (v : Word) : Statement (.trFreeze v) := of_at rfl (by decide)
theorem trUnfreeze (v : Word) : Statement (.trUnfreeze v) := of_at rfl (by decide)
theorem step (v : Word) : Statement (.step v) := of_at rfl (by decide)
theorem stepEnd : Statement (.stepEnd) := of_none rfl
theorem registerWrite (off : BitVec 16) (v : Word) : Statement (.registerWrite off v) := fun h p hp => by
  cases hp
  simpa [Instr.wellFormed] using h
theorem busSize (off : BitVec 16) (size : BitVec 8) (write : Option (BitVec 64)) : Statement (.busSize off size write) := of_none rfl
theorem lowWordRead (off : BitVec 16) : Statement (.lowWordRead off) := of_none rfl
theorem vtarget (code : BitVec 6) : Statement (.vtarget code) := of_none rfl
theorem pace (v : BitVec 16) : Statement (.pace v) := of_none rfl
theorem sprintGrant : Statement (.sprintGrant) := of_none rfl
theorem sprintRevoke : Statement (.sprintRevoke) := of_none rfl
theorem resetN : Statement (.resetN) := of_none rfl
theorem powerUp (mv : BitVec 10) : Statement (.powerUp mv) := of_none rfl
theorem brownOut (mv : BitVec 10) : Statement (.brownOut mv) := of_none rfl
theorem retentionEntry (mv : BitVec 10) : Statement (.retentionEntry mv) := of_none rfl
theorem retentionExit (mv : BitVec 10) : Statement (.retentionExit mv) := of_none rfl
theorem vsprintChange (mv : BitVec 10) : Statement (.vsprintChange mv) := of_none rfl
theorem initDone : Statement (.initDone) := of_none rfl
theorem oscCountDone (count : BitVec 24) (mv : BitVec 10) : Statement (.oscCountDone count mv) := of_none rfl
theorem calibrateEnd (romOk : Bool) (mcal : BitVec 128) : Statement (.calibrateEnd romOk mcal) := of_none rfl
theorem bistEnd (failed : BitVec 8) (info : Word) (ticks : Word) (edges : BitVec 64) : Statement (.bistEnd failed info ticks edges) := of_none rfl
theorem sprintTick : Statement (.sprintTick) := of_none rfl
theorem ledgerTick (mv : BitVec 10) : Statement (.ledgerTick mv) := of_none rfl
theorem lifeEstimate : Statement (.lifeEstimate) := of_none rfl
theorem paceWindow : Statement (.paceWindow) := of_none rfl
theorem holdoffEnd : Statement (.holdoffEnd) := of_none rfl
theorem sprintIdleTimeout : Statement (.sprintIdleTimeout) := of_none rfl
theorem iest (estimate : Word) : Statement (.iest estimate) := of_none rfl
theorem tempSample (tj : BitVec 10) : Statement (.tempSample tj) := of_none rfl
theorem canarySample (readings : Delays) : Statement (.canarySample readings) := of_none rfl
theorem sramError (uncorr : Bool) (array : BitVec 2) (index : BitVec 20) : Statement (.sramError uncorr array index) := of_none rfl
theorem itineraryFetch : Statement (.itineraryFetch) := of_none rfl
theorem itineraryCheck : Statement (.itineraryCheck) := of_none rfl
theorem beat (e : EngineId) : Statement (.beat e) := of_none rfl
theorem rowTurnaround (e : EngineId) : Statement (.rowTurnaround e) := of_none rfl
theorem racking (e : EngineId) : Statement (.racking e) := of_none rfl
theorem readReturn (line : BitVec 17) (poison : BitVec 8) : Statement (.readReturn line poison) := of_none rfl
theorem writeAccept : Statement (.writeAccept) := of_none rfl
theorem itineraryComplete (g : GuestId) : Statement (.itineraryComplete g) := of_none rfl
theorem watchdog (c : Bool) : Statement (.watchdog c) := of_none rfl
theorem twinActivate : Statement (.twinActivate) := of_none rfl
theorem twinChunkSend : Statement (.twinChunkSend) := of_none rfl
theorem twinMessage (seq : BitVec 16) (hash : BitVec 64) : Statement (.twinMessage seq hash) := of_none rfl
theorem twinLeave : Statement (.twinLeave) := of_none rfl
theorem traceWrite : Statement (.traceWrite) := of_none rfl
theorem resetRelease (mv : BitVec 10) : Statement (.resetRelease mv) := of_none rfl

end Sys2Proof.Laws.PortAligned
end

