-- ==== Sys2Proof/Tests/Slice0.lean ====
section
/-! SUPPORT. The model's own tests: ill-formed commands that WellFormed refuses, single steps whose expected results are worked out by
hand from the rules, and for every statement states that meet its hypotheses. -/

namespace Sys2Proof.Tests

open Sys2Proof Sys2Proof.Machine

-- One thread: the kernel evaluations below would otherwise wait for each other on a thread each.
set_option Elab.async false

/-! ### Small states -/

/-- IDLE, calibrated, with the tables loaded. -/
def idle : State := { State.reset with unit := .idle, oscDone := true, cellar := { Cellar.reset with loaded := true, gen := 1 } }

/-- The same in another unit state. -/
def inState (u : UnitState) : State := { idle with unit := u }

/-- OFF. -/
def offState : State := { State.reset with unit := .off }

/-- A guest with a ring of 4 entries at address 0. -/
def ring (st : GuestState) (tail : BitVec 16) : Guest := { Guest.reset with log2Size := 2, state := st, tail := tail }

/-- Guest 3 of a state. -/
def with3 (s : State) (x : Guest) : State := s.updGuest 3 fun _ => x

/-- An AMAX itinerary of one FP32 element at address 0 into slot 0 (Tables 2-2, 2-3 and 2-5): class 10, grade 1, vslot_en, in0 present. -/
def amax : Record := 0x4000000040A#1024 ||| (1#1024 <<< 424)

/-- The same with the reserved class 15. -/
def badClass : Record := amax ||| 0xF#1024

/-- The record of amax read for guest 3 in RUN. -/
def fetched (r : Record) (poisoned : Bool) : State :=
  { with3 (inState .run) { ring .active 1 with record := some ⟨r, poisoned⟩ } with cur := some 3, arbPtr := 3, arbCredit := 1 }

/-- The itinerary of amax in execution in context 0 for guest 3. -/
def ctxOf (r : Record) : Ctx := formContext idle 3 0 r

/-- Guest 3's entry in context 0. -/
def entry0 : Entry := { deadEntry 3 0 10 stOk 0 with ctx := some false, pin := some 0 }

/-- RUN with amax in execution. -/
def running0 (c : Ctx) : State :=
  { with3 (inState .run) { ring .active 1 with started := 1 } with entries := [entry0], ctx0 := some c }

/-- amax with its one row done. -/
def doneCtx : Ctx := { ctxOf amax with nextRow := 1, rowsDone := 1 }

/-- A rejected entry of guest 3. -/
def dead : Entry := deadEntry 3 0 10 stBadField 0x02

/-- RUN with a rejected entry to post. -/
def rejected : State := { with3 (inState .run) { ring .active 1 with started := 1 } with entries := [dead] }

/-! ### Well-formedness -/

theorem test_illformed_commands_are_refused :
    ([.run 0, .stop 1, .hold 1, .resume 1, .bist 1, .softwareReset 1, .attach 0 0, .detachDrain 0 1, .detachNow 0 1, .guestResume 0 1,
      .overlayOpen 1, .overlayApply 1, .overlayDiscard 1, .overlayWindowWrite 0x044 0, .overlayWindowWrite 0x400 0, .tableStage 0,
      .tableCommit 1, .tableAbandon 1, .setPolicy 0, .vsClear 1, .vwOpen 1, .vwApply 1, .vwDiscard 1, .vwDataWrite 0x140 0,
      .vwDataWrite 0x102 0, .saveSlots 0, .saveSlots 0x80100000, .restoreSlots 0x80000000, .saveMaps 0x80000000,
      .restoreMaps 0x80000000, .tsClear 0, .tsClearAll 1, .tsSave 1] : List Instr).all (fun c => !c.wellFormed) = true := by decide

theorem test_illformed_registers_and_events_are_refused :
    ([.errClr 0 0, .w1cClear 0x0040 1, .w1cClear 0x2100 1, .clrLow 0, .trClear 0, .trFreeze 1, .trUnfreeze 1, .step 1,
      .registerWrite 0x0042 0, .busSize 0x0040 4 (some 0), .busSize 0xA078 4 none, .lowWordRead 0xA078, .powerUp 499, .brownOut 500,
      .retentionEntry 499, .retentionEntry 570, .retentionExit 579, .oscCountDone 0x30000 499, .ledgerTick 499, .resetRelease 499,
      .readReturn 0x18000 0, .canarySample ⟨1, 0⟩] : List Instr).all (fun c => !c.wellFormed) = true := by decide +kernel

theorem test_wellformed_commands_pass :
    ([.run 1, .softwareReset 0x80C30000, .overlayWindowWrite 0x3FC 0, .vwDataWrite 0x13C 0, .vwDataWrite 0x3FC 0, .saveSlots 0x80000000,
      .restoreMaps 0x80300000, .tsSave 4, .errClr 15 1, .w1cClear 0x30FC 1, .w1cClear 0x2104 1, .w1cClear 0x210C 1, .w1cClear 0x81FC 1,
      .busSize 0x0041 4 (some 0), .busSize 0x0044 8 none, .busSize 0x0040 8 (some 0), .lowWordRead 0xE120, .retentionEntry 569,
      .retentionExit 580, .readReturn 0x17FFF 0, .registerWrite 0xFFFC 0] : List Instr).map Instr.wellFormed =
    [true, true, true, true, true, true, true, true, true, false, false, true, true, true, true, true, true, true, true, true, true] := by
  decide

theorem test_two_command_bits_are_not_sole :
    ((Instr.run 3).sole, (Instr.run 1).sole, (Instr.tsSave 6).sole, (Instr.vwOpen 0x30000).sole, (Instr.step 0x80000001).sole) =
      (false, true, false, false, true) := by decide

theorem test_no_word_spells_a_command : decodeTableWord 32 0 = none := rfl

/-! ### States that meet the statements' hypotheses, clause by clause -/

/-- A step answers a next state. -/
def goesOn (s : State) : Bool := match step s with | .next _ => true | .fault _ => false | .refused _ => false

/-- What a step that goes on answers. -/
theorem next_of_goesOn {s : State} (h : goesOn s = true) : ∃ t, step s = .next t := by
  unfold goesOn at h
  split at h
  · exact ⟨_, by assumption⟩
  · cases h
  · cases h

/-- Memory with one written byte, and a write unit to accept. -/
def writing : State :=
  { running0 doneCtx with mem := [(5, 1)], wfifo := [⟨false, 0, [(8, 0xFF, 7)]⟩], pending := [.writeAccept] }

/-- A debug step in HOLD. -/
def stepping : State := { inState .hold with trace := { Trace.reset with stepping := true, stepReq := 1 } }

theorem test_hyp_queue : { idle with pending := [Instr.run 1] }.pending = [Instr.run 1] ∧ idle.pending = [] := ⟨rfl, rfl⟩

theorem test_hyp_resets :
    (idle.unit ≠ .off ∧ (Instr.softwareReset 0x80C30000).wellFormed = true ∧ (Instr.softwareReset 0x80C30000).sole = true ∧
      (0x80C30000#32).extractLsb' 16 8 = 0xC3#8) ∧
    ((Instr.softwareReset 0x80000000).wellFormed = true ∧ (Instr.softwareReset 0x80000000).sole = true ∧
      (0x80000000#32).extractLsb' 16 8 ≠ 0xC3#8) ∧
    (idle.unit = .reset → idle.resetN = true) ∧
    (State.reset.unit = .reset → { State.reset with resetN := true }.resetN = true) ∧
    (offState.unit = .off ∧ 500 ≤ (500#10).toNat) ∧ (idle.unit ≠ .off ∧ (499#10).toNat < 500) := by decide +kernel

theorem test_hyp_memory : MemInv writing ∧ ∃ t, step writing = .next t :=
  ⟨by unfold MemInv; decide +kernel, next_of_goesOn (by decide +kernel)⟩

theorem test_hyp_debug_step : StepInv { stepping with pending := [.stepEnd] } ∧ stepping.trace.stepping = true ∧
    ∃ t, step { stepping with pending := [.stepEnd] } = .next t :=
  ⟨fun _ => rfl, rfl, next_of_goesOn (by decide +kernel)⟩

theorem test_hyp_queues : TraceInv writing ∧ FifoInv writing ∧ TwinInv writing ∧ ∃ t, step writing = .next t :=
  ⟨by unfold TraceInv; decide +kernel, by unfold FifoInv; decide +kernel, by unfold TwinInv; decide +kernel,
   next_of_goesOn (by decide +kernel)⟩

theorem test_hyp_rings : RingInv writing ∧ ∃ t, step writing = .next t :=
  ⟨by unfold RingInv RingOk; decide +kernel, next_of_goesOn (by decide +kernel)⟩

theorem test_hyp_quiet : QuietInv writing ∧ ∃ t, step writing = .next t :=
  ⟨by unfold QuietInv; decide +kernel, next_of_goesOn (by decide +kernel)⟩

theorem test_hyp_request :
    (let s := { running0 doneCtx with power := { Power.reset with sprintEn := true, accountOk := true, recent := true, sprintReq := true } }
     RequestInv s ∧ s.inExec ≠ 0) ∧ RequestInv idle := by unfold RequestInv RequestHolds; decide +kernel

theorem test_hyp_sprint : SprintInv { idle with power := { Power.reset with sprintEn := true, accountOk := true }, unit := .run } ∧
    ∃ t, step { idle with power := { Power.reset with sprintEn := true, accountOk := true }, unit := .run, pending := [.sprintGrant] } =
      .next t :=
  ⟨by unfold SprintInv; decide +kernel, next_of_goesOn (by decide +kernel)⟩

/-! #### The register port -/

theorem test_hyp_port :
    ((Instr.attach 63 1).wellFormed = true ∧ (Instr.attach 63 1).port = some (0x18F0#16, 1#32)) ∧
    ((Instr.registerWrite 0xFFFC 5).wellFormed = true ∧ (Instr.registerWrite 0xFFFC 5).port = some (0xFFFC#16, 5#32)) ∧
    (offState.unit = .off ∧ (Instr.lowWordRead 0xA074).wellFormed = true ∧ (Instr.busSize 0x41 4 (some 0)).wellFormed = true) ∧
    ((Instr.busSize 0xFFF8 8 none).wellFormed = true ∧ (0xFFF8#16).toNat % 8 = 0 ∧ (0xFFFC#16).toNat % 8 ≠ 0) ∧
    idle.unit ≠ .off := by decide +kernel

/-- Tasting with a record selected that does not exist. -/
def noTaste : Tasting := { idle.tasting with selKind := true, selIndex := 64 }

/-- An enabled cause on page 3. -/
def alarmed : State := { idle with hdr := vPut idle.hdr 3 { PageHdr.reset with ien := 0x8000, istat := 0x8000 } }

theorem test_hyp_lines :
    readReg alarmed (winOff 3 0x018) &&& readReg alarmed (winOff 3 0x014) ≠ 0 ∧ lineUp alarmed .error = true ∧
    lineUp alarmed .done = false ∧ lineUp idle .error = false ∧
    lineUp { idle with done := 1#64 <<< 63, hdr := vPut idle.hdr 2 { PageHdr.reset with ien := 1 } } .done = true := by decide +kernel

theorem test_hyp_wrong_state_and_double_commands :
    ((Instr.run 1).wellFormed = true ∧ (Instr.run 1).sole = true ∧ (Instr.run 1).port = some (0x0040#16, 1#32) ∧
      (inState .hold).unit ≠ .off ∧ legalUnit (.run 1) .hold = false) ∧
    (vAt { inState .hold with hdr := vPut idle.hdr 0 { PageHdr.reset with ien := 0x8000 } }.hdr (pageOf 0x0040)).ien.getLsbD 15 = true ∧
    ((Instr.run 3).wellFormed = true ∧ (Instr.run 3).port = some (0x0040#16, 3#32) ∧ 1 < bitCount 3 (cmdBitsAt (0x0040#16).toNat)) := by
  decide +kernel

theorem test_hyp_low_words :
    selectedTaste idle.tasting = some Taste.zero ∧
    (selectedTaste { idle.tasting with selKind := true, selIndex := 63 }).isSome = true ∧ selectedTaste noTaste = none ∧
    (15 : Nat) < 16 := by decide +kernel

theorem test_hyp_plain_registers :
    (rwMask 0xE040 = some 0x13F ∧ rwMask 0xF040 = some 0x0000FF03 ∧ rwMask 0x18E8 = some 0xFFFF ∧ rwMask 0xF014 = some 0xFFFF ∧
      rwMask 0x80AC = some 0xFFFFFFFF ∧ rwMask 0x80B0 = none) ∧
    (rwTakes 0xF040 .fault = false ∧ rwTakes 0xF040 .hold = true ∧ rwTakes 0xA040 .fault = true ∧ rwTakes 0xA040 .reset = false ∧
      rwTakes 0x8050 .calibrate = true ∧ rwTakes 0x8050 .off = false) ∧
    (inState .fault).running = false ∧ (inState .hold).running = true ∧ 16 < ((0x22#32).extractLsb' 1 5).toNat := by decide +kernel

theorem test_hyp_headers_and_clears :
    (Instr.errClr 15 1).wellFormed = true ∧ (5 : Nat) < 6 ∧ (495 : Nat) < 496 ∧
    (Instr.w1cClear 0xF018 1).wellFormed = true ∧ (Instr.w1cClear 0x24FC 1).wellFormed = true := by decide

/-! #### Unit states, start-up and supply -/

theorem test_hyp_control :
    (controlTarget (.run 1) (inState .drain) = some .run ∧ (inState .drain).test.vreqEn = false) ∧
    controlTarget (.stop 2) (inState .run) = some .idle ∧ controlTarget (.stop 2) (running0 doneCtx) = some .drain ∧
    controlTarget (.hold 4) (inState .run) = some .hold ∧ controlTarget (.resume 8) (inState .hold) = some .run ∧
    controlTarget (.bist 16) idle = some .bist ∧
    ([.run 1, .stop 2, .hold 4, .resume 8, .bist 16] : List Instr).all (fun c => c.wellFormed && c.sole) = true := by decide +kernel

theorem test_hyp_supply :
    State.reset.unit = .reset ∧ { State.reset with initRun := true }.initRun = true ∧
    (500 ≤ (755#10).toNat ∧ (755#10).toNat ≤ 755 ∧ 755 < (756#10).toNat) ∧
    (idle.unit ≠ .off ∧ idle.retention = false ∧ 500 ≤ (569#10).toNat ∧ (569#10).toNat < 570) ∧
    ({ idle with retention := true }.retention = true ∧ 580 ≤ (580#10).toNat) := by decide +kernel

/-- CALIBRATE, before and after the end of step 1. -/
def calibrating (d : Bool) : State := { State.reset with unit := .calibrate, oscDone := d }

theorem test_hyp_calibrate :
    ((calibrating true).upTicks < 65536 ∧ 65536 ≤ { calibrating true with upTicks := 65536 }.upTicks) ∧
    (QuietInv (calibrating false) ∧ (calibrating false).unit = .calibrate ∧ (calibrating false).oscDone = false) ∧
    (0x26666 ≤ (0x26666#24).toNat ∧ (0x26666#24).toNat ≤ 0x40000) ∧ (0x26665#24).toNat < 0x26666 ∧ 0x40000 < (0x40001#24).toNat ∧
    (QuietInv (calibrating true) ∧ (calibrating true).oscDone = true) ∧
    (∃ e : EngineId, ((0x0F#128).extractLsb' (8 * e.toNat) 8).toNat < 16) ∧
    (∀ e : EngineId, 16 ≤ ((0x10101010101010101010101010101010#128).extractLsb' (8 * e.toNat) 8).toNat) := by
  unfold QuietInv; exact ⟨by decide, by decide +kernel, by decide, by decide, by decide, by decide +kernel, ⟨15, by decide⟩, by decide +kernel⟩

/-- A requested BIST with its tests and a sweep of two steps behind it, engine 1's step 1 recorded before. -/
def sweeping : State :=
  { inState .bist with upTicks := 0x80000, test := { TestRegs.reset with requested := true, sweepMax := 2, edge := 0x10 } }

theorem test_hyp_bist_ends :
    ((inState .bist).test.requested = false ∧ (inState .bist).upTicks < 2 ^ 19 ∧ 2 ^ 19 ≤ { inState .bist with upTicks := 0x80000 }.upTicks) ∧
    (sweeping.test.requested = true ∧ QuietInv sweeping ∧ sweeping.upTicks < (0x80001#32).toNat ∧
      2 ^ 19 + sweeping.test.sweepMax.toNat * 2 ^ 16 < (0xA0001#32).toNat ∧ (0x80000#32).toNat ≤ sweeping.upTicks) ∧
    { inState .bist with vint := { Vintage.reset with xfer := some ⟨.saveSlots, 1, 2, 64⟩ } }.vint.xfer ≠ none := by unfold QuietInv; decide +kernel

/-- R233: engine 0's step 2 is recorded, engine 1's earlier step 1 stays, and step 3 of engine 2 was not run; EDGE and BIST_DONE. -/
theorem test_sweep_records_edges :
    (match exec (.bistEnd 0 0 0x80000 0x322) sweeping with
      | .next t => (t.unit, t.test.edge, t.test.biTicks, (vAt t.hdr 12).istat) | _ => (.off, 0, 0, 0)) = (.idle, 0x12#64, 0x80000#32, 3#16) := by
  decide +kernel

/-- 11_configuration.md, Table 11-3: the boot BIST passes after 2^19 ticks, whatever BIST_END reports, and not before. -/
theorem test_boot_bist_takes_its_ticks :
    (match exec (.bistEnd 0 0 9 0) { inState .bist with upTicks := 0x80000 } with
      | .next t => (t.unit, readReg t 0xC054) | _ => (.off, 0)) = (.idle, 0x80000#32) ∧
    (match exec (.bistEnd 0 0 0x80000 0) { inState .bist with upTicks := 0x7FFFF } with | .next t => t.unit | _ => .off) = .bist := by
  decide +kernel

theorem test_hyp_bist :
    QuietInv (inState .bist) ∧ (inState .bist).unit = .bist ∧ (inState .bist).vint.xfer = none ∧ (inState .bist).tasting.save = none ∧
    (0x01#8 &&& 0xFF#8 ≠ 0) ∧ { idle.test with requested := true, biSel := 0xFE }.biSel &&& 0x01#8 = 0 := by
  unfold QuietInv; decide +kernel

/-! #### Guests -/

theorem test_hyp_attach :
    let s := with3 idle { ring .detached 0 with base := 0x2FFF000, log2Size := 5 }
    (s.running = true ∧ (Instr.attach 3 1).wellFormed = true ∧ (Instr.attach 3 1).sole = true ∧ (s.guest 3).state = .detached ∧
      s.twin.enable = false ∧ 2 ≤ (s.guest 3).log2Size.toNat ∧ (s.guest 3).log2Size.toNat ≤ 12 ∧ (s.guest 3).weight ≠ 0 ∧
      (s.guest 3).base.toNat % 4096 = 0 ∧ (s.guest 3).base.toNat + 2 ^ (s.guest 3).log2Size.toNat * 128 ≤ 0x3000000 ∧
      ∀ k, (s.guest k).state = .detached) ∧
    ((with3 idle (ring .paused 0)).guest 3).state ≠ .detached ∧
    ({ idle with twin := { Twin.reset with enable := true, guest := 4 } }.twin.guest ≠ 3) ∧
    (((with3 idle { ring .detached 0 with log2Size := 13 }).guest 3).state = .detached ∧ 12 < (13#4).toNat) ∧
    (let r := with3 idle { ring .detached 0 with base := 0x2FFF000, log2Size := 6 }
     (r.guest 3).state = .detached ∧ (r.guest 3).base.toNat % 4096 = 0 ∧
       0x3000000 < (r.guest 3).base.toNat + 2 ^ (r.guest 3).log2Size.toNat * 128) := by decide +kernel

theorem test_hyp_doorbell :
    let fits (x : Guest) (n : BitVec 16) : Bool :=
      decide ((n - x.head).toNat ≤ 2 ^ x.log2Size.toNat) && decide ((x.tail - x.head).toNat ≤ (n - x.head).toNat)
    ((with3 idle (ring .active 2)).guest 3).state = .active ∧ fits (ring .active 2) 4 = true ∧ fits (ring .active 2) 2 = true ∧
    fits (ring .active 2) 5 = false ∧ fits (ring .active 2) 1 = false ∧
    fits { ring .paused 0xFFFF with head := 0xFFFE } 2 = true ∧ ((with3 idle (ring .draining 1)).guest 3).state = .draining := by
  decide +kernel

theorem test_hyp_ring_registers :
    ((with3 idle (ring .active 0)).guest 3).state ≠ .detached ∧ (0x1000#32).extractLsb' 0 26 ≠ ((with3 idle (ring .active 0)).guest 3).base ∧
    (3#32).extractLsb' 0 4 ≠ ((with3 idle (ring .active 0)).guest 3).log2Size ∧
    (2#32).extractLsb' 0 4 = ((with3 idle (ring .active 0)).guest 3).log2Size := by decide +kernel

theorem test_hyp_detach_and_resume :
    ((with3 idle (ring .active 0)).guest 3).head = ((with3 idle (ring .active 0)).guest 3).tail ∧
    ((with3 idle (ring .paused 1)).guest 3).head ≠ ((with3 idle (ring .paused 1)).guest 3).tail ∧
    ([.detachDrain 3 2, .detachNow 3 4, .guestResume 3 8] : List Instr).all (fun c => c.wellFormed && c.sole) = true ∧
    (idle.guest 3).state = .detached ∧ ((with3 idle (ring .paused 1)).guest 3).state = .paused := by decide +kernel

/-! #### Overlays and tables -/

/-- The overlay window open on overlay 7 with one entry. -/
def ovOpen (e0 e1 : Word) : State := { idle with ovWin := some ⟨7, ⟨1, vPut (vPut (vAll 7 0) 0 e0) 1 e1⟩⟩ }

theorem test_hyp_overlays :
    ([.overlayOpen 0x107, .overlayApply 0x207, .overlayDiscard 0x407] : List Instr).all (fun c => c.wellFormed && c.sole) = true ∧
    idle.ovWin = none ∧ overlayHeld idle 7 = false ∧ (ovOpen 0 0).ovWin ≠ none ∧ (ovOpen 0 0).ovWin.map (·.sel) ≠ some 6 ∧
    overlayHeld (running0 (ctxOf (amax ||| 0x1000#1024))) 0 = true ∧
    ((Instr.overlayWindowWrite 0x048 64).wellFormed = true ∧ (Instr.overlayWindowWrite 0x3FC 0).wellFormed = true) ∧
    (let w : OvWindow := ⟨7, ⟨1, vPut (vAll 7 0) 0 0xE048⟩⟩
     (ctxRegMask (w.copy.target 0)).isSome = true ∧ (∀ i, i < 64 → 1 ≤ i → w.copy.target i = 0 ∧ w.copy.value i = 0)) ∧
    (let w : OvWindow := ⟨7, ⟨1, vPut (vAll 7 0) 0 0x0044⟩⟩
     ctxRegMask (w.copy.target 0) = none ∧ ∀ i, i < (0#6).toNat → False) := by decide +kernel

/-- BLEND (0), DQ8 (1), DQ4 (2) or a core table (8) selected, with a window and a staging mark. -/
def table (t : BitVec 4) (w : BitVec 2) (st : Bool) : State :=
  { idle with cellar := { idle.cellar with selTable := t, selWindow := w, stBlend := st && t == 0, stDq8 := st && t == 1, stDq4 := st && t == 2 } }

theorem test_hyp_stage_and_abandon :
    ([.tableStage 1, .tableCommit 2, .tableAbandon 4] : List Instr).all (fun c => c.wellFormed && c.sole) = true ∧
    (staging (table 0 0 false).cellar 0 = false ∧ inactiveBusy (table 0 0 false) 0 = false) ∧
    staging (table 2 0 true).cellar 2 = true ∧
    inactiveBusy { table 1 0 false with ctx0 := some { doneCtx with bankDq8 := true } } 1 = true ∧
    8 ≤ (8#4).toNat ∧ 3 ≤ (7#4).toNat := by decide +kernel

theorem test_hyp_table_window :
    (table 0 2 true).cellar.loaded = true ∧
    tableSize 2 ≤ 2048 * (0#2).toNat + 4 * (16#9).toNat ∧ 2048 * (0#2).toNat + 4 * (15#9).toNat < tableSize 2 ∧
    2048 * (1#2).toNat + 4 * (511#9).toNat < 4096 ∧ 4096 ≤ 2048 * (2#2).toNat + 4 * (0#9).toNat ∧
    staging (table 0 2 true).cellar 0 = true ∧ staging (table 0 2 false).cellar 0 = false ∧ 0 < tableSize 8 := by decide +kernel

/-- User slots of an all-zero bank are blank. -/
theorem blendImage_blank {c : Cellar} {b : Bool} {slot : Nat} (hb : (if b then c.blendB else c.blendA) = vAll 10 0) (h : 32 ≤ slot) :
    blendImage c b slot = List.replicate 32 0 := by
  have : ∀ w, blendWord c b slot w = 0 := fun w => by simp [blendWord, hb, Nat.not_lt.mpr h]
  exact (List.map_congr_left fun w _ => this w).trans rfl

/-- A blank bank passes R190. -/
theorem badImage_blank {c : Cellar} (h : (if !c.actBlend then c.blendB else c.blendA) = vAll 10 0) : badImage c = none := by
  rw [badImage, List.findSome?_eq_none_iff]
  intro x hx
  obtain ⟨k, -, rfl⟩ := List.mem_map.mp hx
  have e : imageFault (List.replicate 32 0) = none := by decide +kernel
  rw [blendImage_blank h (Nat.le_add_right _ _), e]
  rfl

theorem test_hyp_commit :
    (let c := (table 0 0 true).cellar
     (c.stBlend || c.stDq8 || c.stDq4) = true ∧ badImage c = none) ∧
    (badImage { (table 0 0 true).cellar with blendB := vPut (vAll 10 0) 0 0xFFFFFFFF }).isSome = true ∧
    (let c := (table 0 0 false).cellar
     (c.stBlend || c.stDq8 || c.stDq4) = false) :=
  ⟨⟨rfl, badImage_blank rfl⟩, by decide +kernel, rfl⟩

/-! #### Vintage and tasting -/

/-- A slot range with a policy. -/
def range (lo hi : SlotId) (p : Word) : State := { idle with vint := { Vintage.reset with rangeFirst := lo, rangeLast := hi, policy := p } }

theorem test_hyp_slot_ranges :
    ([.setPolicy 1, .vsClear 2] : List Instr).all (fun c => c.wellFormed && c.sole) = true ∧
    (policyOk (range 1022 1023 0x30F).vint.policy = true ∧ (range 1022 1023 0x30F).running = true ∧
      slotPinned (range 1022 1023 0x30F) 1022 = false ∧ slotOpen (range 1022 1023 0x30F) 1023 = false) ∧
    policyOk (range 0 0 0xFF00).vint.policy = false ∧ (0#10).toNat < (1#10).toNat ∧
    slotPinned (running0 doneCtx) 0 = true ∧ slotPinned (running0 doneCtx) 1 = false := by decide +kernel

/-- The vintage window open on slot 1023. -/
def vwState (r : SlotRec) : State := { idle with vint := { Vintage.reset with window := some ⟨1023, r, 0⟩ } }

/-- A transfer that runs. -/
def moving (op : XferOp) : State := { idle with vint := { Vintage.reset with xfer := some ⟨op, 1, 2, 64⟩ }, mem := [(2, 5)] }

theorem test_hyp_vintage_window :
    ([.vwOpen 0x103FF, .vwApply 0x203FF, .vwDiscard 0x403FF] : List Instr).all (fun c => c.wellFormed && c.sole) = true ∧
    slotPinned idle 1023 = false ∧ slotPinned (running0 doneCtx) 0 = true ∧ (moving .saveSlots).vint.xfer.isSome = true ∧
    recordOk slotReset = true ∧ recordOk (vPut slotReset 15 1) = false ∧ (vwState slotReset).vint.window.isSome = true ∧
    (vwState slotReset).vint.window.map (·.slot) ≠ some 0 ∧
    (Instr.vwDataWrite 0x13C 0).wellFormed = true := by decide +kernel

theorem test_hyp_transfers_start :
    ([.saveSlots 0x800FFC00, .restoreSlots 0x80100000, .saveMaps 0x80200000, .restoreMaps 0x8030FC00] : List Instr).all
      (·.wellFormed) = true ∧
    (let first := (0x800FFC00#32).extractLsb' 0 10
     let count := ((0x800FFC00#32).extractLsb' 10 10).toNat + 1
     (first.toNat + count) * 1 ≤ 1024 ∧ idle.vint.xbase.toNat % 64 = 0 ∧ idle.vint.xbase.toNat + 64 * count ≤ 0x3000000) ∧
    (let count := ((0x8030FC00#32).extractLsb' 10 10).toNat + 1
     (1 + count) * 16 > 1024 ∧ count * 16 ≤ 1024 ∧ ¬ 0x2FFF000 + 512 * count ≤ 0x3000000) ∧
    idle.vint.xfer = none ∧ (moving .saveMaps).vint.xfer.isSome = true ∧ slotPinned (running0 doneCtx) 0 = true := by decide +kernel

theorem test_hyp_transfers_move :
    (MemInv (moving .saveSlots) ∧ (moving .saveSlots).vint.xfer = some ⟨.saveSlots, 1, 2, 64⟩ ∧ (moving .saveSlots).transfers = true ∧
      twinFull (moving .saveSlots) = false ∧ 64 + XferOp.saveSlots.size * 2 ≤ 0x3000000 ∧ 64 + XferOp.saveMaps.size * 2 ≤ 0x3000000) ∧
    (let s := { moving .restoreSlots with mem := [(65, 15), (68, 15), (69, 3), (129, 15), (132, 15), (133, 3)], poison := [3] }
     s.vint.xfer = some ⟨.restoreSlots, 1, 2, 64⟩ ∧ s.transfers = true ∧
       (∀ g ∈ s.poison, 64 * g + 64 ≤ 64 ∨ 64 + 64 * 2 ≤ 64 * g) ∧ ∀ i, i < 2 → recordOk (readRecord s.mem (64 + 64 * i)) = true) := by
  unfold MemInv; decide +kernel

theorem test_hyp_restores :
    (let s := { moving .restoreMaps with poison := [0, 17] }
     s.vint.xfer = some ⟨.restoreMaps, 1, 2, 64⟩ ∧ s.transfers = true ∧ 64 + XferOp.restoreMaps.size * 2 ≤ 0x3000000 ∧ 1 + 2 ≤ 64 ∧
       ∀ g ∈ s.poison, 64 * g + 64 ≤ 64 ∨ 64 + XferOp.restoreMaps.size * 2 ≤ 64 * g) ∧
    (let s := { moving .restoreMaps with poison := [9] }
     ∀ g ∈ s.poison, (64 * g + 64 ≤ 64 ∨ 64 + 512 ≤ 64 * g) ∧ ¬(64 * g + 64 ≤ 64 + 512 ∨ 64 + 512 * 2 ≤ 64 * g)) ∧
    (let s := { moving .restoreSlots with mem := [(65, 15), (68, 15), (69, 3), (129, 15)] }
     s.poison = [] ∧ recordOk (readRecord s.mem 64) = true ∧ recordOk (readRecord s.mem 128) = false) := by decide +kernel

/-- Tasting registers. -/
def tasted (base : BitVec 26) (save : Bool) : State :=
  { idle with tasting := { Tasting.reset with saveBase := base, save := if save then some (base.toNat, vAll 6 .zero, vAll 10 .zero) else none } }

theorem test_hyp_tasting :
    ([.tsClear 1, .tsClearAll 2, .tsSave 4] : List Instr).all (fun c => c.wellFormed && c.sole) = true ∧
    (0x2FEF000#26).toNat + 69632 ≤ 0x3000000 ∧ 0x3000000 < (0x2FEF040#26).toNat + 69632 ∧ (0x20#26).toNat % 64 ≠ 0 ∧
    (tasted 0 false).tasting.save = none ∧ (tasted 0 true).tasting.save.isSome = true ∧ MemInv (tasted 0 true) ∧
    (tasted 0 true).transfers = true ∧ twinFull (tasted 0 true) = false := by unfold MemInv; decide +kernel

/-! #### Power, health and margins -/

/-- A power state. -/
def powered (u : UnitState) (p : Power) : State := { inState u with power := p }

theorem test_hyp_registers_of_power :
    idle.unit = .idle ∧ (inState .fault).unit = .fault ∧ (Instr.clrLow 1).wellFormed = true ∧
    ({ idle with test := { TestRegs.reset with vreqEn := true } }.test.vreqEn = true ∧ (Instr.run 1).wellFormed = true ∧ (Instr.run 1).sole = true) ∧
    ((0x00A4CB80#32).toNat ≤ (0x00A4CB80#32).toNat ∧ ¬ (0x00A4CB80#32).toNat ≤ (0x00A4CB7F#32).toNat) := by decide +kernel

theorem test_hyp_vtarget :
    offState.unit = .off ∧ State.reset.unit = .reset ∧ (idle.unit ≠ .off ∧ idle.unit ≠ .reset ∧ idle.unit ≠ .calibrate) ∧
    (7 ≤ (7#6).toNat ∧ (7#6).toNat ≤ 0x19 ∧ (0x19#6).toNat ≤ 0x19) ∧ ((0x1A#6).toNat ≤ 0x2D ∧ ¬ (0x1A#6).toNat ≤ 0x19 ∧
      idle.power.granted = false ∧ idle.test.vreqEn = false) ∧ ¬ 7 ≤ (6#6).toNat ∧ ¬ (0x2E#6).toNat ≤ 0x2D := by decide +kernel

theorem test_hyp_windows :
    idle.calibrated = true ∧ 4095 < 4096 ∧ 4096 ≤ { Power.reset with windowTicks := 4096 }.windowTicks := by decide +kernel

theorem test_hyp_sprint_events :
    (let p := { Power.reset with sprintReq := true, granted := false }
     p.sprintReq = true ∧ p.granted = false) ∧ Power.reset.sprintReq = false ∧
    ({ Power.reset with granted := true }).granted = true ∧
    (let p := { Power.reset with holdoff := true, holdTicks := 2 ^ 22 }
     p.holdoff = true ∧ 2 ^ 22 ≤ p.holdTicks) ∧
    (let s := powered .run { Power.reset with recent := true, idleTicks := 4096 }
     s.power.recent = true ∧ s.inExec = 0 ∧ 4096 ≤ s.power.idleTicks) ∧ (running0 doneCtx).inExec ≠ 0 := by decide +kernel

theorem test_hyp_sprint_region :
    idle.power.vsprint = decide (755 < (755#10).toNat) ∧ 755 < (756#10).toNat ∧ 0x19 < (0x1A#6).toNat ∧ idle.power.vack.toNat ≤ 0x19 ∧
    { Power.reset with vsprint := true }.vsprint = true := by decide +kernel

theorem test_hyp_ticks :
    let s := powered .run { Power.reset with osc := 0x30000, vsprint := true }
    s.unit ≠ .off ∧ s.power.osc ≠ 0 ∧ s.power.vsprint = true ∧ idle.power.vsprint = false ∧ (running0 doneCtx).ctx false = some doneCtx ∧
    (running0 doneCtx).ctx true = none := by
  exact ⟨by decide, by decide, rfl, rfl, rfl, rfl⟩

theorem test_hyp_samples :
    1024 ≤ { Power.reset with sampleT := 1024 }.sampleT ∧ 600 ≤ (600#10).toNat ∧ Power.reset.guardOn = false ∧
    (Power.reset.tj.toNat < Power.reset.tthr.toNat ∧ Power.reset.tthr.toNat ≤ (0x230#10).toNat) ∧ idle.calibrated = true ∧
    2 ^ 24 ≤ { Health.reset with estTicks := 2 ^ 24 }.estTicks ∧
    Health.reset.lowThr.toNat < Health.reset.remain.toNat ∧ Health.reset.remain ≠ 0 := by decide +kernel

/-- 64 delays of one value. -/
def delays (v : Nat) : BitVec 1024 := (List.range 64).foldl (fun x k => x ||| BitVec.ofNat 1024 (v * 2 ^ (16 * k))) 0

theorem test_hyp_canaries_and_sram :
    let low := { idle with health := { Health.reset with can := vPut Health.reset.can 0 { Canary.reset with expect := 40, belowT := true } },
                           power := { Power.reset with sampleC := 1024 } }
    (low.unit ≠ .off ∧ low.unit ≠ .reset ∧ 1024 ≤ low.power.sampleC ∧ low.cellar.loaded = true ∧ low.running = true ∧
      low.test.vreqEn = false ∧ (vAt low.health.can 0).belowT = true ∧ 19 < max ((vAt low.health.can 0).expect.toNat / 2) 4) ∧
    ¬ 20 < max ((vAt low.health.can 0).expect.toNat / 2) 4 ∧ (calibrating true).cellar.loaded = false ∧
    ((Instr.canarySample ⟨delays 256, delays 237⟩).wellFormed = true ∧
      ∀ e : EngineId, LeastMargin ⟨delays 256, delays 237⟩ e.toNat 19 ∧ LeastMargin ⟨delays 256, delays 0⟩ e.toNat 255) ∧
    ((calibrating true).unit = .calibrate ∧ (inState .bist).unit = .bist ∧ (inState .fault).unit = .fault) ∧
    idle.exc.sramValid = false ∧ { idle.exc with sramValid := true }.sramValid = true := by
  unfold LeastMargin; decide +kernel

/-! #### Trace, debug step and twin -/

theorem test_hyp_trace :
    ([.trClear 1, .trFreeze 2, .trUnfreeze 4] : List Instr).all (fun c => c.wellFormed && c.sole) = true ∧
    (let t := { Trace.reset with queue := [⟨1, 0, 0, 0⟩], count := 128, ctrl := 2 }
     t.count = 128 ∧ t.ctrl.getLsbD 1 = true ∧ t.stopped = false ∧ t.queue = [⟨1, 0, 0, 0⟩]) ∧
    (let t := { Trace.reset with queue := [⟨1, 0, 0, 0⟩], count := 127, ctrl := 2 }
     t.count < 128 ∧ t.count ≤ 128 ∧ t.queue = [⟨1, 0, 0, 0⟩]) ∧ Trace.reset.ctrl.getLsbD 1 = false ∧ Trace.reset.queue = [] := by
  decide

theorem test_hyp_step :
    stepping.unit = .hold ∧ (Instr.step 0x80000000).wellFormed = true ∧ stepping.trace.stepping = true ∧
    (∀ e, stepSpent stepping e = true) ∧
    stepSpent (stepping.setEngine 5 { Engine.empty with phase := .pass1, stepLeft := 1 }) 5 = false ∧
    takeRow (stepping.setEngine 5 { Engine.empty with stepLeft := 1 }) 5 = none ∧
    (inState .hold).trace.stepping = false := by decide +kernel

/-- Twin mode with guest 3. -/
def twinned (own : List (BitVec 16 × BitVec 64)) : State :=
  { inState .run with twin := { Twin.reset with enable := true, guest := 3, active := true, own := own, onMismatch := true,
                                                stream := List.replicate 4096 0 } }

theorem test_hyp_twin_mode :
    (idle.unit = .idle ∧ idle.twin.active = false ∧ (1#32).getLsbD 0 = true ∧ ∀ k : GuestId, (idle.guest k).state = .detached) ∧
    (4 : GuestId) ≠ (0x301#32).extractLsb' 8 6 ∧ ((idle.updGuest 4 fun _ => ring .active 0).guest 4).state ≠ .detached ∧
    (let s := { idle with twin := { Twin.reset with enable := true } }
     s.running = true ∧ s.twin.enable = true ∧ s.twin.active = false) ∧ (twinned []).twin.active = true := by decide +kernel

theorem test_hyp_twin_hashes :
    (twinned []).running = true ∧ (twinned []).twin.active = true ∧ 4096 ≤ (twinned []).twin.stream.length ∧
    (twinned []).twin.own.length < 64 ∧ (twinned []).twin.part = [] ∧ (twinned []).twin.own = [] ∧
    (twinned [(0xFFFF, 1)]).twin.own = (0xFFFF, 1) :: [] ∧ (0 : BitVec 16) ≠ 0xFFFF ∧ (1 : BitVec 64) ≠ 2 ∧
    64 ≤ (twinned (List.replicate 64 (0, 0))).twin.own.length := by decide +kernel

/-! #### Execution -/

theorem test_hyp_fetch :
    (let s := with3 (inState .run) (ring .active 1)
     s.unit = .run ∧ hasRoom s = true ∧ s.cur = none ∧ (s.guest 3).discard = false ∧ (s.guest 3).record = none ∧ s.poison = [] ∧
       (s.guest 3).base.toNat + (s.guest 3).started.toNat % 2 ^ (s.guest 3).log2Size.toNat * 128 + 128 ≤ 0x3000000 ∧
       Selects s 3 1) ∧
    (let s := { with3 (inState .run) (ring .active 1) with poison := [1] }
     0 / 64 ∉ s.poison ∧ 0 / 64 + 1 ∈ s.poison) ∧
    ({ with3 (inState .run) { ring .active 1 with record := some ⟨amax, false⟩ } with arbPtr := 2 }.guest 3).record.isSome = true ∧
    (let s := with3 (inState .run) { ring .draining 1 with discard := true }
     (s.guest 3).discard = true ∧ Selects s 3 1) ∧
    (let s := { with3 (inState .run) (ring .active 2) with arbPtr := 3, arbCredit := 1 }
     Selects s 3 1) ∧
    (∀ k : GuestId, (idle.guest k).state = .detached) ∧ hasRoom { idle with ctx0 := some doneCtx, ctx1 := some doneCtx } = false := by
  unfold Selects
  refine ⟨⟨rfl, by decide +kernel, rfl, rfl, rfl, rfl, by decide +kernel, .inr ⟨by decide +kernel, by decide +kernel, by decide +kernel,
    2, by decide, by decide, by decide +kernel⟩⟩, by decide +kernel, rfl, ⟨rfl, .inr ⟨by decide +kernel, by decide +kernel, by decide +kernel, 2, by decide,
    by decide, by decide +kernel⟩⟩, .inl (by decide +kernel), by decide +kernel, by decide +kernel⟩

/-- amax of one FP32 element at an address, without a slot. -/
def opd0 (base : Nat) : Record := (amax ^^^ (1#1024 <<< 42)) ||| BitVec.ofNat 1024 (base * 2 ^ 384)

theorem test_hyp_check :
    (let s := fetched badClass false
     s.unit = .run ∧ s.twin.enable = false ∧ hasRoom s = true ∧ s.cur = some 3 ∧ (s.guest 3).state = .active ∧
       (s.guest 3).started ≠ (s.guest 3).tail ∧ (s.guest 3).discard = false ∧ (s.guest 3).record = some ⟨badClass, false⟩ ∧
       heldBack s badClass = false ∧ checkItinerary s badClass = some (stBadField, 0x02)) ∧
    ((fetched amax true).guest 3).record = some ⟨amax, true⟩ ∧
    (let s := fetched amax false
     hasRoom s = true ∧ (s.guest 3).record = some ⟨amax, false⟩ ∧ heldBack s amax = false ∧ checkItinerary s amax = none ∧
       rOverlay amax = 0 ∧ rVslotEn amax = true) ∧
    heldBack { running0 { doneCtx with rowsDone := 0 } with cur := some 4 } amax = true := by decide +kernel

theorem test_hyp_table_2_7 :
    table27[0]? = some (0x01, stBadField) ∧ ¬Fails (inState .run) badClass 0x01 ∧ table27[1]? = some (0x02, stBadField) ∧
    Fails (inState .run) badClass 0x02 ∧ checkItinerary (inState .run) badClass = some (stBadField, 0x02) ∧
    Fails { inState .run with vint := { Vintage.reset with window := some ⟨0, slotReset, 0⟩ } } amax 0x40 ∧
    checkItinerary { inState .run with vint := { Vintage.reset with window := some ⟨0, slotReset, 0⟩ } } amax = some (stIllegal, 0x40) ∧
    checkItinerary (inState .run) amax = none := by
  refine ⟨rfl, ?_, rfl, ?_, by decide +kernel, ⟨by decide +kernel, by decide +kernel⟩, by decide +kernel, by decide +kernel⟩
  · rintro (h | h | ⟨o, h⟩ | h | h)
    · exact absurd h (by decide +kernel)
    · exact absurd h (by decide +kernel)
    · cases o <;> exact absurd h (by decide +kernel)
    · exact absurd h (by decide +kernel)
    · exact absurd h (by decide +kernel)
  · exact .inl (by decide +kernel)

/-- amax under overlay 7, whose two entries both name UM_TS_CTRL. -/
def overlaid : State :=
  let o : Overlay := ⟨2, vPut (vPut (vPut (vPut (vAll 7 0) 0 0xE040) 1 1) 2 0xE040) 3 3⟩
  { fetched (amax ||| 0x7000#1024) false with overlays := vPut idle.overlays 6 o }

theorem test_hyp_overlaid :
    rOverlay (amax ||| 0x7000#1024) = 7 ∧ hasRoom overlaid = true ∧ heldBack overlaid (amax ||| 0x7000#1024) = false ∧
    checkItinerary overlaid (amax ||| 0x7000#1024) = none ∧
    (let o := vAt overlaid.overlays (BitVec.ofNat 3 6)
     min o.count.toNat 64 = 2 ∧ o.target 1 = 0xE040 ∧ o.value 1 = 3 ∧ ∀ i, i < 2 → o.target i ≠ 0x9040) := by decide +kernel

/-- An engine in a phase of amax's row. -/
def engaged (p : Phase) (r : Record) : State :=
  { running0 (ctxOf r) with engines := vPut (vAll 4 .empty) 0 { Engine.empty with phase := p } }

/-- An SMAX record: class 6 with in0 at 0 and out0 at 64. -/
def smax : Record := 0x406#1024 ||| (1#1024 <<< 424) ||| ((64#1024 ||| (1#1024 <<< 40)) <<< 768)

theorem test_hyp_beats :
    (canBeat (engaged .turnaround smax) 0 = true ∧ (engaged .turnaround smax).ctx0 = some (ctxOf smax) ∧ areasInside smax = true ∧
      isCol smax = false ∧ hasPass2 smax = true ∧ (ctxOf smax).storing = true) ∧
    (canBeat (engaged .racking smax) 0 = true ∧ (vAt (engaged .racking smax).engines 0).phase = .racking) ∧
    (let s := { engaged .pass1 amax with retention := true }
     s.retention = true ∧ areasInside amax = true) := by decide +kernel

theorem test_hyp_room :
    (hasRoom (running0 doneCtx) = true ∧ (running0 doneCtx).inExec ≤ 1 ∧ doneCtx.storing = true ∧ doneCtx.nextRow = workUnits doneCtx.it) ∧
    (hasRoom (running0 (ctxOf amax)) = false ∧ (ctxOf amax).nextRow ≠ workUnits amax) ∧
    hasRoom (running0 { doneCtx with storing := false }) = false := by decide +kernel

/-- SMAX writes 64 to 67, which another reads; amax has slot 0 pinned; neither hold touches a copy of amax without its slot. -/
theorem test_hyp_waits :
    WaitsFor (opd0 64) { entry0 with held := some smax } ∧ WaitsFor amax entry0 ∧
    heldBack { running0 doneCtx with entries := [{ entry0 with held := some smax }] } (opd0 64) = true ∧
    heldBack { running0 doneCtx with entries := [{ entry0 with held := some smax }] } (opd0 68) = false :=
  ⟨.inl ⟨smax, ⟨64, 68⟩, ⟨64, 68⟩, 64, rfl, .inr ⟨.in0, by decide, by decide +kernel, .inl (by decide +kernel)⟩,
     .inr ⟨.out0, fun _ => rfl, by decide +kernel, .inl (by decide +kernel)⟩, by decide, by decide⟩,
   .inr ⟨by decide +kernel, by decide +kernel⟩, by decide +kernel, by decide +kernel⟩

/-- A row of n elements of an SMAX at grade g. -/
def smaxRow (g n : Nat) : Record := 0x6#1024 ||| BitVec.ofNat 1024 (1024 * g) ||| (1#1024 <<< 424) |||
  BitVec.ofNat 1024 ((n - 1) * 2 ^ 256) ||| ((0x400000#1024 ||| (1#1024 <<< 40)) <<< 768)

/-- 2 rows of 2 elements into STAT: by rows with a (row) output, and by columns. -/
def statRow : Record := 0x404#1024 ||| (1#1024 <<< 424) ||| (1#1024 <<< 256) ||| ((64#1024 ||| (3#1024 <<< 39)) <<< 768)
def statCol : Record := 0x2000404#1024 ||| (5#1024 <<< 424) ||| (1#1024 <<< 256) ||| (1#1024 <<< 288) |||
  ((64#1024 ||| (1#1024 <<< 40)) <<< 768)

/-- The write FIFO full of units of context 0. -/
def fullFifo (s : State) : State := { s with wfifo := List.replicate 64 ⟨false, 0, [(8, 0xFF, 7)]⟩ }

theorem test_hyp_beat_slices :
    (let s := engaged .pass1 (smaxRow 2 1)
     canBeat s 0 = true ∧ areasInside (smaxRow 2 1) = true ∧ Phase.pass1.beats = true ∧ isScan (ctxOf (smaxRow 2 1)) .pass1 = true ∧
       0 + 1 < sliceBeats s (ctxOf (smaxRow 2 1)) true) ∧
    (let c := ctxOf (smaxRow 1 65)
     let s := engaged .pass1 (smaxRow 1 65)
     sliceBeats s c true ≤ 0 + 1 ∧ 0 + 1 < slices s c ∧ slices s c ≤ 1 + 1 ∧ rCls c.it ≠ .perm) ∧
    (let c := ctxOf (smaxRow 1 65)
     let s := engaged .pass2 (smaxRow 1 65)
     sliceBeats s c false ≤ 0 + 1 ∧ isScan c .pass2 = false ∧ 0 + 1 < slices s c ∧ c.storing = true) := by decide +kernel

/-- The first slice of pass 2 issues four units of 64 bytes. -/
theorem test_hyp_beat_writes :
    let c := ctxOf (smaxRow 1 65)
    let s := engaged .pass2 (smaxRow 1 65)
    let r := (sliceIdx s c 0 0).foldl (fun (p : RowAcc × ByteWrites) i =>
      ((writeStep s c p.1 i).1, p.2 ++ (writeStep s c p.1 i).2)) ((RowAcc.clear, []) : RowAcc × ByteWrites)
    s.wfifo.length + (unitsOf false r.2).length ≤ fifoDepth ∧ fifoDepth < (fullFifo s).wfifo.length + (unitsOf false r.2).length := by
  decide +kernel

theorem test_hyp_columns_and_rows :
    (let s := engaged .column statCol
     canBeat s 0 = true ∧ isCol statCol = true ∧ areasInside statCol = true ∧ Phase.column.beats = true ∧ rD1 statCol = 2 ∧
       (colList statCol 0).length = 2) ∧
    (isCol statRow = false ∧ hasPass2 statRow = false ∧ canBeat (engaged .turnaround statRow) 0 = true ∧ areasInside statRow = true ∧
      (ctxOf statRow).storing = true) ∧
    (let s := running0 (ctxOf statRow)
     canBeat s 3 = true ∧ (vAt s.engines 3).phase = .none ∧ (takeRow s 3).isSome = true ∧ takeRow (running0 doneCtx) 3 = none) := by
  decide +kernel

/-- A record with a mask mode and mask_a, with in2 or without. -/
def masked (mode a : Nat) (in2 : Bool) : Record :=
  smaxRow 1 4 ||| BitVec.ofNat 1024 (mode * 2 ^ 16 + a * 2 ^ 192) ||| if in2 then BitVec.ofNat 1024 ((2 ^ 40 + 11 * 2 ^ 26) * 2 ^ 640) else 0

theorem test_hyp_masks :
    ([(masked 0 0 false), (masked 1 0 true), (masked 2 1 false), (masked 3 1 false), (masked 4 2 false), (masked 4 0 true)].map fun r =>
      (rMaskMode r, rHas r .in2, maskReads r)) =
      [(0, false, false), (1, true, true), (2, false, false), (3, false, false), (4, false, false), (4, true, true)] ∧
    firstRead (ctxOf (masked 1 0 true)) .in2 false 0 = none ∧
    (firstRead { ctxOf (masked 1 0 true) with taken := [⟨.in2, false, 0, 1, false⟩] } .in2 false 0).isSome = true := by decide +kernel

theorem test_hyp_numbers :
    ((XVal.fin false 1 1).abs.lt minNormal = false ∧ Fmt.fp32.max.lt (XVal.fin false 1 1).abs = false ∧
      (XVal.fin true (2 ^ 128 - 2 ^ 103) 1).abs.lt (.fin false (2 ^ 128 - 2 ^ 103) 1) = false ∧
      (XVal.fin true 1 (2 ^ 127)).abs.lt (.fin false (2 ^ 25 - 1) (2 ^ 151)) = true) ∧
    (Fmt.e4m3.isFloat = true ∧ Fmt.e4m3.bits ≤ 8 ∧ 0x7E < 2 ^ Fmt.e4m3.bits ∧ Fmt.e4m3.isNanCode 0x7E = false ∧
      (roundTo .e4m3 none (.fin false 465 1)).2 = true ∧ (roundTo .e4m3 none (.fin false 464 1)).2 = false) ∧
    ((f32Val 0x3F800000).isFin = true ∧ (XVal.zero false).lt (f32Val 0x3F800000) = true ∧ (f32Val 0xBFC00000).isZero = false ∧
      (f32Val 0xBF800000).lt (.zero false) = true ∧ f32Val 0x7F800000 = .inf false ∧ (f32Val 0x7FC00000).isNan = true ∧
      (f32Val 0x80000000).isZero = true) ∧
    (specialOne 11 (f32Val 0x3F800000)).isSome = true ∧ specialOne 11 (f32Val 0x40000000) = none := by decide +kernel

/-- CONV of one FP32 element at 0 into E4M3 at 64. -/
def convert : Record := 0x409#1024 ||| (1#1024 <<< 424) ||| ((0xC000040#1024 ||| (1#1024 <<< 40)) <<< 768)

theorem test_hyp_convert :
    rCls convert = .conv ∧ rBlend convert = 0 ∧ rMaskMode convert = 0 ∧ rHas convert .out0 = true ∧ rHas convert .out1 = false ∧
    dScale (rDesc convert .in0) = 0 ∧ dScale (rDesc convert .out0) = 0 ∧ dFmt (rDesc convert .out0) = .e4m3 ∧
    (ctxOf convert).storing = true ∧ (ctxOf convert).wrote = [] := by decide +kernel

theorem test_hyp_cask_order : [(1#32, none), (2#32, some 3#32)].Perm [((2#32 : Word), some (3#32 : Word)), (1#32, none)] := .swap _ _ _

theorem test_hyp_write :
    writing.wfifo = ⟨false, 0, [(8, 0xFF, 7)]⟩ :: [] ∧ twinFull writing = false ∧
    (∀ w ∈ [((8 : Nat), (0xFF : Byte), (7 : Byte))], w.1 < 0x3000000) ∧ MemInv writing ∧ writing.poison = [] ∧
    writing.ctx false = some doneCtx ∧ twinFull (twinned (List.replicate 64 (0, 0))) = true := by
  unfold MemInv; decide +kernel

theorem test_hyp_read_return :
    (inState .hold).running = true ∧ (Instr.readReturn 0x17FFF 0x81).wellFormed = true ∧ (0x81 : BitVec 8) ≠ 0 ∧
    (running0 doneCtx).ctx true = none ∧ (running0 doneCtx).ctx false = some doneCtx ∧
    (let a := opdAreas amax .in0 ++ opdAreas amax .in1 ++ opdAreas amax .in2 ++ (opdAreas amax .out0 ++ opdAreas amax .out1)
     (∃ x ∈ a, x.lo < x.hi ∧ 0 < x.hi ∧ x.lo < 512) ∧ ¬∃ x ∈ a, x.lo < x.hi ∧ 512 < x.hi ∧ x.lo < 1024) := by decide +kernel

/-- A requested BIST that a restore keeps from its tests, after a merge in segment 1. -/
def restoring (op : XferOp) : State := { moving op with unit := .bist, test := { TestRegs.reset with requested := true }, merged := [8] }

theorem test_hyp_restore_read :
    (restoring .restoreMaps).unit = .bist ∧ (restoring .restoreMaps).test.requested = true ∧ (restoring .restoreMaps).running = false ∧
    (∃ x, (restoring .restoreMaps).vint.xfer = some x ∧ (x.op = .restoreSlots ∨ x.op = .restoreMaps)) ∧
    (¬∃ x, (restoring .saveMaps).vint.xfer = some x ∧ (x.op = .restoreSlots ∨ x.op = .restoreMaps)) ∧ 8 ∈ (restoring .restoreMaps).merged := by
  refine ⟨rfl, rfl, rfl, ⟨_, rfl, .inr rfl⟩, ?_, by decide⟩
  rintro ⟨x, h, h'⟩
  cases h
  simp at h'

/-- The restore's line is marked and logged, and a segment that returns clean drops its merge; where a save runs, nothing is read. -/
theorem test_restore_reads_in_bist :
    ([(XferOp.restoreMaps, 2#8), (.restoreMaps, 0), (.saveMaps, 2)].map fun (op, mask) =>
      match exec (.readReturn 0 mask) (restoring op) with
      | .next t => (t.poison, t.merged, (vAt t.hdr 8).errCnt)
      | _ => ([], [], 0)) = [([1], [8], 1#32), ([], [], 0), ([], [8], 0)] := by decide +kernel

theorem test_hyp_completions :
    (rejected.entries.find? (·.guest == 3) = some dead ∧ rejected.running = true ∧ dead.ctx = none ∧ dead.reason ≠ 0x51 ∧
      twinFull rejected = false) ∧
    (let s := running0 doneCtx
     s.entries.find? (·.guest == 3) = some entry0 ∧ s.running = true ∧ entry0.ctx = some false ∧ s.ctx false = some doneCtx ∧
       doneCtx.storing = true ∧ doneCtx.rowsDone = workUnits doneCtx.it ∧ s.wfifo = [] ∧ twinFull s = false ∧ areasInside doneCtx.it = true) ∧
    (let c := { doneCtx with it := amax ||| (0x1040#1024 <<< 32 <<< 5) }
     rSummary amax = 0 ∧ rSummary c.it ≠ 0) := by decide +kernel

/-- An entry that the watchdog ended while it waited. -/
def timedOut : Entry := { dead with status := stDetached, reason := 0x51 }

theorem test_hyp_not_yet :
    (∀ e ∈ rejected.entries, e.guest ≠ 4) ∧ (inState .fault).running = false ∧
    ((twinned (List.replicate 64 (0, 0))).twin.guest = 3 ∧ twinFull (twinned (List.replicate 64 (0, 0))) = true) ∧
    ((running0 doneCtx).entries.find? (·.guest == 3) = some entry0 ∧ entry0.ctx = some false ∧
      { doneCtx with storing := false }.storing = false ∧ (ctxOf amax).rowsDone ≠ workUnits amax ∧ ∃ u ∈ writing.wfifo, u.ctx = false) ∧
    (timedOut.ctx = none ∧ timedOut.reason = 0x51 ∧ { rejected with entries := [timedOut] }.entries.find? (·.guest == 3) = some timedOut) ∧
    ((running0 doneCtx).ctx (!false) = none ∧ { running0 doneCtx with unit := .drain }.unit = .drain) := by
  refine ⟨by decide +kernel, rfl, by decide +kernel, ⟨by decide +kernel, rfl, rfl, by decide +kernel, ⟨_, List.mem_singleton.2 rfl, rfl⟩⟩,
    by decide +kernel, rfl, rfl⟩

/-- R199: an entry that the watchdog ended posts WATCHDOG and page 8's log when its turn comes. -/
theorem test_timed_out_posts :
    (match exec (.itineraryComplete 3) { rejected with entries := [timedOut] } with
      | .next t => ((t.guest 3).flags, (t.guest 3).last, (vAt t.hdr 8).errCode, (vAt t.hdr 8).istat.getLsbD 2) | _ => (0, 0, 0, false)) =
      (0x400#12, 0x5105#32, 0x51#8, true) := by decide +kernel

/-- R178: DRAIN passes to IDLE with the last completion. -/
theorem test_drain_ends :
    (match exec (.itineraryComplete 3) { running0 doneCtx with unit := .drain } with
      | .next t => (t.unit, (vAt t.hdr 0).istat.getLsbD 1) | _ => (.off, false)) = (.idle, true) := by decide +kernel

theorem test_hyp_watchdog :
    let s := { running0 { doneCtx with progress := 10 ^ 9 } with power := { Power.reset with osc := 0x30000 } }
    let c := { doneCtx with progress := 10 ^ 9 }
    s.ctx false = some c ∧ s.unit = .run ∧ (s.guest c.guest).limitUs ≠ 0 ∧
    (s.guest c.guest).limitUs.toNat * s.power.osc.toNat * 2000 / 2 ^ 20 ≤ c.progress ∧
    s.entries.find? (·.guest == c.guest) = some entry0 ∧ entry0.ctx = some false ∧ entry0.guest = c.guest ∧ twinFull s = false ∧
    ¬ (s.guest c.guest).limitUs.toNat * s.power.osc.toNat * 2000 / 2 ^ 20 ≤ doneCtx.progress ∧
    (let t := { s with ctx1 := some c, entries := [entry0, { entry0 with index := 1, ctx := some true }] }
     t.ctx true = some c ∧ t.entries.find? (·.guest == c.guest) = some entry0 ∧ entry0.ctx ≠ some true ∧ entry0.reason ≠ 0x51 ∧
       (t.ctx (!true)).isSome = true) ∧
    (let t := { s with entries := [dead, { entry0 with index := 1 }] }
     t.entries.find? (·.guest == c.guest) = some dead ∧ dead.ctx ≠ some false ∧ dead.reason ≠ 0x51) ∧
    (let t := { s with twin := (twinned (List.replicate 64 (0, 0))).twin }
     twinFull t = true ∧ t.twin.guest = c.guest) := by decide +kernel

/-! #### More states that meet hypotheses -/

/-- IDLE in a margin session at code 0x1A, with VDD_U in the sprint region or below it. -/
def margin (v : Bool) : State :=
  { powered .idle { Power.reset with vack := 0x1A, vsprint := v } with test := { TestRegs.reset with vreqCode := 0x1A, vreqEn := true } }

theorem test_hyp_margin_ends :
    ((margin true).test.vreqEn = true ∧ (0x1A#32).getLsbD 8 = false ∧ 0x19 < (margin true).power.vack.toNat ∧
      (margin true).power.vsprint = true ∧ (margin false).power.vsprint = false ∧ (0x11A#32).getLsbD 8 = true) ∧
    (let p := { Power.reset with vack := 0x1A, lapsed := true }
     p.lapsed = true ∧ idle.test.vreqEn = false ∧ ¬p.vack.toNat ≤ 0x19 ∧ p.vsprint = false ∧ 755 < (756#10).toNat) := by decide +kernel

/-- BIST with an uncorrectable error of the vintage store met. -/
def storeFailed : State := { inState .bist with upTicks := 0x80000, test := { TestRegs.reset with vintErr := some 7 } }

theorem test_hyp_store_error :
    (QuietInv storeFailed ∧ storeFailed.unit = .bist ∧ storeFailed.vint.xfer = none ∧ storeFailed.tasting.save = none ∧
      storeFailed.test.requested = false ∧ storeFailed.test.vintErr = some 7 ∧ (0xFF#8).getLsbD 5 = true ∧ 0#8 &&& 0xFF#8 &&& 0x3F#8 = 0) ∧
    (0x20#8 &&& 0xFF#8 ≠ 0 ∧ 0x02#8 &&& 0xFF#8 &&& 0x3F#8 ≠ 0) ∧
    (storeFailed.exc.sramValid = false ∧ (inState .bist).test.vintErr = none) := by unfold QuietInv; decide +kernel

/-- An engine in a phase, with a budget. -/
def paced (p : Phase) (r : Record) (eff : BitVec 16) (u : UnitState) : State :=
  { engaged p r with unit := u, power := { Power.reset with eff := eff }, trace := { Trace.reset with stepping := u == .hold },
                     engines := vPut (vAll 4 .empty) 0 { Engine.empty with phase := p, issued := 256, stepLeft := 1 } }

theorem test_hyp_work_completes :
    ([(paced .pass1 smax 0x101 .run, Phase.pass1), (paced .pass2 smax 0x101 .drain, .pass2), (paced .first amax 0x101 .run, .first),
      (paced .column statCol 0x101 .hold, .column), (paced .turnaround smax 0x101 .run, .turnaround),
      (paced .racking smax 0x101 .hold, .racking)].all fun x =>
        (vAt x.1.engines 0).phase == x.2 && (x.1.unit == .run || x.1.unit == .drain || x.1.unit == .hold && x.1.trace.stepping) &&
        !x.1.retention && (vAt x.1.engines 0).issued == 256 && x.1.power.eff == 0x101 && (vAt x.1.engines 0).stepLeft == 1 &&
        x.1.ctx0.any fun c => areasInside c.it) = true ∧
    (let s := paced .pass1 smax 0xFFFF .run
     s.power.eff = 0xFFFF ∧ s.power.protoPace = false) ∧
    isScan (ctxOf smax) .pass1 = true ∧ isCol smax = false ∧ hasPass2 smax = true ∧
    (let s := fullFifo (paced .turnaround statRow 0x101 .run)
     fifoDepth < s.wfifo.length + 1 ∧ (vAt s.engines 0).phase = .turnaround) := by decide +kernel

theorem test_hyp_spent_budget :
    (paced .pass1 smax 0x100 .run).power.eff.toNat ≤ (vAt (paced .pass1 smax 0x100 .run).engines 0).issued ∧
    (0x100 : BitVec 16) ≠ 0xFFFF := by decide +kernel

theorem test_hyp_clamp :
    let p (clamped : Bool) (used lim : Word) : Power :=
      { Power.reset with sprUsed := used, sprLim := lim, clamped := clamped, granted := true, sprintReq := true, vsprint := true }
    (p false 0 5).clamped = false ∧ (5#32).toNat ≤ (5#32).toNat ∧ (p true 5 5).clamped = true ∧ ¬(5#32).toNat ≤ (4#32).toNat ∧
    (p false 0 5).granted = true ∧ idle.unit = .idle := by decide +kernel

theorem test_hyp_estimate :
    idle.calibrated = true ∧ 1024 ≤ { Power.reset with sampleI := 1024 }.sampleI ∧
    (min (0xFFFFFFFF#32).toNat (255 * 250000) ≤ 255 * 250000 + 125000) := by decide +kernel

theorem test_hyp_info :
    (idle.unit ≠ .off ∧ idle.ovWin = none ∧ (ovOpen 0 0).ovWin.isSome = true ∧ idle.vint.window = none ∧
      (vwState slotReset).vint.window.isSome = true ∧ idle.trace.count ≤ 128 ∧ TwinInv idle) ∧
    ({ idle.tasting with selKind := true, selIndex := 63 }.selIndex.toNat < 64 ∧ idle.tasting.selKind = false) ∧
    ((vAt idle.engines 0).shown = .none ∧ (vAt { idle with engines := vPut (vAll 4 .empty) 0 { Engine.empty with shown := .pass1 } }.engines 0).shown ≠ .none) ∧
    ((inState .fault).unit = .fault ∧ (inState .hold).trace.stepping = false ∧ stepping.trace.stepping = true ∧
      (running0 doneCtx).ctx (vAt (running0 doneCtx).engines 0).ctx = some doneCtx) := by unfold TwinInv; decide +kernel

theorem test_hyp_records :
    ([0x30F, 0x1F, 0x80F, 0x230F, 0x830F, 0x100030F, 0x80030F, 0x81030F] : List Word).map policyOk =
      [true, false, false, false, false, false, false, false] ∧
    ([slotReset, vPut slotReset 0 17, vPut slotReset 0 0x20, vPut slotReset 15 1, vPut slotReset 2 0x80, vPut slotReset 4 0x3F80,
      vPut (vPut slotReset 0 1) 4 0x3F80, vPut (vPut slotReset 0 1) 4 0x7F80].map recordOk) =
      [true, false, false, false, false, false, true, false] := by decide +kernel

theorem test_hyp_input_scales :
    (rCls (amax ^^^ (1#1024 <<< 42)) = .amax ∧ recEmpty slotReset = true) ∧
    ((Instr.busSize 0x44 8 none).wellFormed = true ∧ ¬(0x44#16).toNat % 8 = 0 ∧ ¬(8#8).toNat ≤ 4 ∧
      (Instr.busSize 0x41 4 (some 0)).wellFormed = true) := by decide +kernel

theorem test_hyp_twin_leaves :
    (let s := { idle with twin := { Twin.reset with enable := true, active := true, own := [(0, 1)], nextTx := 1 } }
     s.unit = .idle ∧ s.twin.active = true ∧ (0x300#32).getLsbD 0 = false) ∧
    ((inState .bist).running = false ∧ { inState .fault with twin := (twinned []).twin }.twin.active = true) := by decide +kernel

/-- R20: a misaligned 64-bit read returns 0 in both words, and is logged with code 0x80. -/
theorem test_misaligned_wide_read :
    (match exec (.busSize 0x44 8 none) { idle with rdata := 5, rdataLow := 6 } with
      | .next t => (t.rdata, t.rdataLow, (vAt t.hdr 0).errCnt) | _ => (1, 1, 0)) = (0#32, 0#32, 1#32) := by decide +kernel

/-- R213: a window without a limit goes on past 65,535 beats. -/
theorem test_no_limit :
    let x := { Engine.empty with phase := .pass1, issued := 65535 }
    canBeat { paced .pass1 smax 0xFFFF .run with engines := vPut (vAll 4 .empty) 0 x } 0 = true ∧
    canBeat { paced .pass1 smax 0xFFFE .run with engines := vPut (vAll 4 .empty) 0 x } 0 = false := by decide +kernel

/-- R232: a session that ends in the sprint region is a protocol event. -/
theorem test_margin_ends :
    (match exec (.vreqWrite 0x1A) (margin true) with | .next t => (t.power.protoPace, t.power.proto) | _ => (false, 0)) = (true, 1#32) ∧
    (match exec (.vreqWrite 0x1A) (margin false) with | .next t => (t.power.protoPace, t.power.lapsed) | _ => (true, false)) = (false, true) := by
  decide +kernel

/-- R221: 1.375 A lies between the codes 5 and 6, 1.3 A rounds to 5, and 100 A saturates. -/
theorem test_estimate_codes :
    (iestCode 1300000 0, iestCode 1374999 0, iestCode 1375001 0, iestCode 100000000 0) = (5#8, 5#8, 6#8, 0xFF#8) := by decide +kernel

/-- R233: an uncorrectable error of the vintage store during VINT fails that test. -/
theorem test_store_error_fails_bist :
    (match exec (.bistEnd 0 0 9 0) storeFailed with
      | .next t => (t.unit, t.faultCause, t.test.biFail, t.test.biInfo) | _ => (.off, 0, 0, 0)) = (.fault, 0x10#8, 0x20#8, 0x00007005#32) := by
  decide +kernel

/-! ### Worked examples of the spec -/

/-- A record from its 32 words. -/
def ofWords (l : List (Nat × Nat)) : Record := l.foldl (fun r p => r ||| BitVec.ofNat 1024 (p.2 * 2 ^ (8 * p.1))) 0

/-- The itinerary of Table 2-10. -/
def rmsNorm (y : Nat) (b0 b1 : Nat) : Record :=
  ofWords [(0x00, 0x04400402), (0x04, 0x00A12C25), (0x14, 0x358637BD), (0x20, 0xFFF), (0x24, 0x7FF), (0x30, 0x04400000),
    (0x34, 0x00200140), (0x40, 0x04008000), (0x44, 0x120), (0x50, b0), (0x54, b1), (0x60, y), (0x64, 0x00200100), (0x70, 0x01C00000),
    (0x74, 0x380)]

/-- 02_itineraries.md, worked example: it passes every check; with a β descriptor it is 0x03, with y inside x it is 0x22. -/
theorem test_table_2_10_checks :
    checkItinerary (inState .run) (rmsNorm 0x4D400000 0 0) = none ∧
    checkItinerary (inState .run) (rmsNorm 0x4D400000 0x04008000 0x120) = some (stBadField, 0x03) ∧
    checkItinerary (inState .run) (rmsNorm 0x4C800000 0 0) = some (stBadRange, 0x22) := by decide +kernel

/-- 02_itineraries.md, Table 2-11, step 6: tail 20 with head 3 is 17 entries in a ring of 16. -/
theorem test_table_2_11_doorbell :
    let x := { ring .paused 3 with log2Size := 4, head := 3, started := 3 }
    (match exec (.doorbell 3 20) (with3 (inState .run) x) with
      | .next t => (readReg t 0x101C, readReg t 0x116C) | _ => (0, 0)) = (0x00003B84#32, 3#32) ∧
    (match exec (.doorbell 3 7) (with3 (inState .run) x) with
      | .next t => (readReg t 0x101C, readReg t 0x116C) | _ => (0, 0)) = (0#32, 7#32) := by decide +kernel

/-- 03_lanes_and_blends.md, Table 3-11: the ELU image passes R61; its counts are C = 1, A = 1, L = 2. -/
def elu : List Word := [0x2A4, 0, 0, 0, 0, 0x06078000, 0x42626200, 0x8E870003, 0x93282000] ++ List.replicate 23 0

theorem test_table_3_11_image :
    imageFault elu = none ∧ slotCount elu 1 0 = 1 ∧ slotCount elu 1 1 = 1 ∧ slotCount elu 1 2 = 2 ∧
    imageFault (elu.set 9 1) = some 9 ∧ imageFault (elu.set 5 0x06078001) = some 5 := by decide +kernel

/-! #### Status, slots, held voltages and events -/

theorem test_hyp_slots : TwinSettled writing ∧ SlotInv writing ∧ TwinSettled State.reset ∧ ∃ t, step writing = .next t := by
  refine ⟨.inl rfl, ⟨fun k => ?_, fun b c h => ?_⟩, .inl rfl, next_of_goesOn (by decide +kernel)⟩
  · have e : writing.vint.slots = vAll 10 slotReset := rfl
    rw [e, vAt_vAll]
    decide +kernel
  · cases b
    · rw [← Option.some.inj (show some doneCtx = some c from h)]
      decide +kernel
    · cases h

theorem test_hyp_status :
    idle.unit ≠ .off ∧ PageIsBusy (inState .bist) 0 ∧ PageIsBusy (inState .bist) 12 ∧ ¬PageIsBusy idle 2 ∧
    PageIsBusy (running0 doneCtx) 2 ∧ readReg alarmed (winOff 3 0x018) &&& readReg alarmed (winOff 3 0x014) ≠ 0 :=
  ⟨by decide, .inr (.inr rfl), rfl, by rintro (h | h) <;> exact h rfl, .inl (Option.some_ne_none _), by decide +kernel⟩

/-- CALIBRATE with a VTARGET held. -/
def holding (c : BitVec 6) : State := { calibrating true with power := { Power.reset with heldV := some c } }

theorem test_hyp_held_voltage :
    (calibrating true).power.heldV = none ∧ (holding 0x19).power.heldV = some 0x19 ∧ SprintInv (holding 0x19) ∧ SprintInv (holding 0x1A) ∧
    (7 ≤ (0x19#6).toNat ∧ (0x19#6).toNat ≤ 0x19) ∧ (7 ≤ (0x1A#6).toNat ∧ ¬(0x1A#6).toNat ≤ 0x19 ∧ (0x1A#6).toNat ≤ 0x2D) ∧
    ¬ 7 ≤ (6#6).toNat := by unfold SprintInv; decide +kernel

theorem test_hyp_overlay_count :
    let w : OvWindow := ⟨7, ⟨65, Vector.ofFn fun k => if k.val % 2 = 0 then 0xE040#32 else 0⟩⟩
    64 < w.copy.count.toNat ∧ (∀ i, i < 64 → (ctxRegMask (w.copy.target i)).isSome = true ∧
      w.copy.value i &&& ~~~((ctxRegMask (w.copy.target i)).getD 0) = 0) ∧ 0x200#12 &&& 0xFFF#12 ≠ 0 := by decide +kernel

theorem test_hyp_events :
    (let t := { Trace.reset with ctrl := 0x4101 }
     t.ctrl.getLsbD 0 = true ∧ t.ctrl.getLsbD (8 + 6) = true ∧ t.stopped = false ∧ t.queue.length < 8 ∧ t.ctrl.getLsbD (8 + 1) = false) ∧
    (let t := { Trace.reset with ctrl := 0x101, queue := List.replicate 8 ⟨0, 0, 0, 0⟩ }
     t.ctrl.getLsbD 0 = true ∧ t.ctrl.getLsbD (8 + 0) = true ∧ t.stopped = false ∧ 8 ≤ t.queue.length) ∧
    ({ dead with gov := some (0x101, true) }).gov = some (0x101, true) ∧ dead.gov = none := by decide +kernel

theorem test_hyp_twin_messages (l : List Byte) :
    let s (p : BitVec 16) (k : BitVec 64) : State := { twinned [] with twin := { (twinned []).twin with part := [(p, k)] } }
    let h := chunkHash l
    (s 0 h).twin.own = [] ∧ (s 0 h).twin.part = (0, h) :: [] ∧ (s 0 h).twin.nextTx = 0 ∧ h ≠ h + 1 ∧ (7 : BitVec 16) ≠ (s 7 h).twin.nextTx := by
  refine ⟨rfl, rfl, rfl, fun h => absurd h (by simp), fun h => absurd (show (7 : BitVec 16) = 0 from h) (by decide)⟩

/-- An image of slot 33 whose header is reserved. -/
def badBank : Cellar := { (table 0 0 true).cellar with blendB := vPut (vAll 10 0) 32 0xFFFFFFFF }

theorem test_hyp_images :
    BadUser badBank 33 0 ∧ (∀ w v, w < 5 → ¬BadUser badBank 32 v) ∧ ¬BadInstr 0x06078000 ∧ BadInstr 0x06078001 ∧ ¬BadWord (elu.getD · 0) 7 := by
  refine ⟨⟨by decide, by decide, by decide, ⟨0, by decide, by decide +kernel⟩, .inl ⟨rfl, .inl (by decide +kernel)⟩⟩, ?_,
    by unfold BadInstr; decide +kernel, by unfold BadInstr; decide +kernel, ?_⟩
  · rintro w v - ⟨-, -, -, ⟨k, hk, h⟩, -⟩
    have all : ∀ k, k < 32 → blendWord badBank (!badBank.actBlend) 32 k = 0 := by decide +kernel
    exact h (all k hk)
  · unfold BadWord BadInstr
    decide +kernel

/-! #### Rows, tasting and completions -/

/-- A present operand at byte k of the record: its base, format code and scale mode. -/
def opd (k base fmt scale : Nat) : Record := BitVec.ofNat 1024 ((base + fmt * 2 ^ 26 + scale * 2 ^ 30 + 2 ^ 40) * 2 ^ (8 * k))

/-- A record of class k with a row of n elements, every operand given and the parameter 1.0. -/
def rowOf (k n : Nat) (ops : Record) : Record := BitVec.ofNat 1024 (k + 1024 + (n - 1) * 2 ^ 256 + 0x3F800000 * 2 ^ 160) ||| opd 0x30 0 0 0 ||| ops

/-- FP32 operands in1, in2, out0 and out1. -/
def ops4 : Record := opd 0x40 0x100 0 0 ||| opd 0x50 0x200 0 0 ||| opd 0x60 0x300 0 0 ||| opd 0x70 0x400 0 0

/-- Memory whose first four FP32 words are 1.0, +inf, a NaN and -2.0. -/
def fourWords : State :=
  { inState .run with mem := [(2, 0x80), (3, 0x3F), (6, 0x80), (7, 0x7F), (10, 0xC0), (11, 0x7F), (15, 0xC0)] }

theorem test_hyp_scans :
    ([0, 1, 2, 3, 4, 5, 6, 7, 8, 9, 10, 11].map fun k => (rowOf k 4 ops4).extractLsb' 0 4) = [0, 1, 2, 3, 4, 5, 6, 7, 8, 9, 10, 11] ∧
    ([0, 1, 2, 3, 4, 5, 6, 7, 8, 9, 10, 11].map fun k => rCls (rowOf k 4 ops4)) =
      [.elem, .gate, .normFwd, .normBwd, .stat, .dot, .smax, .lse, .xent, .conv, .amax, .perm] ∧
    kept idle (ctxOf (rowOf 6 4 ops4)) ⟨3, 0, 0, 0⟩ = true ∧ kept idle (ctxOf (masked 4 2 false)) ⟨3, 0, 0, 0⟩ = false ∧
    (f32Val 0x3F800000).isFin = true ∧ f32Val 0x7F800000 = .inf false ∧ (f32Val 0x7FC00000).isNan = true := by decide +kernel

/-- The scaled inputs of the four words under the parameter 1.0. -/
theorem test_hyp_scaled_inputs :
    ([0, 1, 2, 3].map fun k => statePoint (rowOf 6 4 ops4) ⟨k, 0, 0, 0⟩ 0
      ((f32Val (readInput fourWords (ctxOf (rowOf 6 4 ops4)) .in0 ⟨k, 0, 0, 0⟩).v).mul (f32Val (rParam (rowOf 6 4 ops4))))) =
      [0x3F800000, 0x7F800000, 0x7FC00000, 0xC0000000] := by decide +kernel

theorem test_hyp_sums :
    ([0x3F800000, 0x80000000].all fun (x : Word) => (f32Val x).isFin) = true ∧ (f32Val 0x7FC00000).isNan = true ∧
    (∀ y ∈ [XVal.inf true, .fin true 3 2], 0 < y.den) ∧ XVal.nan ∉ [XVal.inf true, .fin true 3 2] ∧
    (let ts : List TermParts := [⟨0, 0, 2 ^ 23⟩, ⟨-193 * 2 ^ 42, -193, 2 ^ 23⟩]
     (∀ t ∈ ts, t.n = t.z / 2 ^ 42) ∧ ts ≠ [] ∧ (ts.foldl enterTerm RowAcc.clear).needRack = false) ∧
    (let ts : List TermParts := [⟨-193 * 2 ^ 42, -193, 2 ^ 23⟩, ⟨0, 0, 2 ^ 23⟩]
     (∀ t ∈ ts, t.n = t.z / 2 ^ 42) ∧ (ts.foldl enterTerm RowAcc.clear).needRack = true) ∧
    (let k : Cask := { Cask.clear with c := 5 }
     k.nan = false ∧ k.zinf = false ∧ k.pinf = false ∧ k.ninf = false ∧ k.sticky = false ∧ 0 < k.c) := by decide +kernel

/-- A row's working state after n kept elements: how many are NaN, infinite and finite, and the XENT label. -/
def rowAcc (n nan pinf fin : Nat) (label : Int) : RowAcc :=
  { RowAcc.clear with kept := n, nNan := nan, nPinf := pinf, nFin := fin, label := label, labelU := some 0x3F800000 }

theorem test_hyp_turns :
    (Cask.clear.value.isFin = true ∧ { Cask.clear with pinf := true, ninf := true }.value.isFin = false ∧ RowAcc.clear.kept = 0 ∧
      rCls (rowOf 4 4 ops4) = .stat ∧ rCls (rowOf 2 4 ops4) = .normFwd) ∧
    ([rowAcc 0 0 0 0 0, rowAcc 1 1 0 0 0, rowAcc 2 0 1 1 0, rowAcc 1 0 0 0 0, rowAcc 1 0 0 1 0].map fun a =>
      (a.kept, a.nNan, a.nPinf, a.nFin)) = [(0, 0, 0, 0), (1, 1, 0, 0), (2, 0, 1, 1), (1, 0, 0, 0), (1, 0, 0, 1)] ∧
    rStrict (rowOf 6 4 ops4) = false ∧ rStrict (rowOf 6 4 ops4 ||| (1#1024 <<< 24)) = true ∧
    ((rowAcc 1 0 0 1 (-1)).label < 0 ∧ (4 : Int) ≤ (rowAcc 1 0 0 1 4).label ∧ rD0 (rowOf 8 4 ops4) = 4 ∧
      (rowAcc 1 0 0 1 3).labelU = some 0x3F800000 ∧ RowAcc.clear.labelU = none) := by decide +kernel

/-- PERM of a row of 4 under length 3, with the INT32 indices 2, -1 and 4 (the last one poisoned). -/
def gather : Record := rowOf 11 4 (opd 0x40 0x100 10 0 ||| opd 0x60 0x300 0 0) ||| BitVec.ofNat 1024 (4 * 2 ^ 16 + 3 * 2 ^ 192)
def gathering : State :=
  { inState .run with mem := [(0x100, 2), (0x104, 0xFF), (0x105, 0xFF), (0x106, 0xFF), (0x107, 0xFF), (0x108, 4)] }

theorem test_hyp_presents :
    (rCls gather = .perm ∧ rowLength gathering (ctxOf gather) ⟨0, 0, 0, 0⟩ = 3 ∧
      ([0, 1, 2].map fun k => ((fetch gathering (ctxOf gather) .in1 ⟨k, 0, 0, 0⟩).2,
        signedOf 32 (fetch gathering (ctxOf gather) .in1 ⟨k, 0, 0, 0⟩).1)) = [(false, 2), (false, -1), (false, 4)] ∧
      (fetch { gathering with poison := [4] } (ctxOf gather) .in1 ⟨2, 0, 0, 0⟩).2 = true) ∧
    (let r := rowOf 0 4 ops4
     rCls r = .elem ∧ kept idle (ctxOf r) ⟨0, 0, 0, 0⟩ = true ∧ rHas r .in1 = true ∧ rHas r .in2 = true ∧ rMaskMode r = 0 ∧
       rHas r .out0 = true ∧ rHas r .out1 = true) ∧
    (let r := rowOf 1 4 (opd 0x40 0x100 0 0 ||| opd 0x60 0x300 0 0)
     rCls r = .gate ∧ kept idle (ctxOf r) ⟨0, 0, 0, 0⟩ = true ∧ rHas r .in1 = true ∧ rHas r .out0 = true ∧ rHas r .out1 = false) ∧
    rCls convert = .conv ∧ kept idle (ctxOf convert) ⟨0, 0, 0, 0⟩ = true ∧ rHas convert .out1 = false := by decide +kernel

/-- ELEM into E4M3 under slot 0, tasted. -/
def vintage : Record := rowOf 0 4 (opd 0x60 0x300 3 1) ||| BitVec.ofNat 1024 (2 ^ 42 + 2 ^ 27)

/-- Its context: COLD_JIT of an EMPTY slot, so its first evaluation comes first; tasting of every tile with fn_ref. -/
def vintageCtx : Ctx := { ctxOf vintage with tsCtrl := 0x101 }

theorem test_hyp_captures :
    (rVslotEn amax = true ∧ dScale (rDesc amax .in0) ≠ 1 ∧ kept idle (ctxOf amax) ⟨0, 0, 0, 0⟩ = true ∧
      rVslotEn (amax ^^^ (1#1024 <<< 42)) = false) ∧
    (dScale (rDesc vintage .out0) = 1 ∧ rCls vintage ≠ .amax ∧ vintageCtx.storing = false ∧ vintageCtx.slotEmpty = true ∧
      vintageCtx.policy.extractLsb' 12 2 = 0 ∧ (vintageCtx.policy.extractLsb' 8 4).toNat = 3 ∧
      { vintageCtx with rowsDone := 1 }.rowsDone = workUnits vintage) ∧
    (∃ y ∈ [XVal.nan, .fin true 3 2], y.isFin = true) ∧ (∀ y ∈ [XVal.nan, .inf true], y.isFin = false) := by decide +kernel

theorem test_hyp_vintage_output : VintageOutput vintageCtx ∧ ¬VintageOutput (ctxOf amax) :=
  ⟨⟨.out0, by decide +kernel⟩, by rintro ⟨o, h⟩; cases o <;> exact absurd h (by decide +kernel)⟩

theorem test_hyp_vintage_check :
    checkItinerary (inState .run) vintage = none ∧ heldBack (fetched vintage false) vintage = false ∧
    checkItinerary (inState .run) (rowOf 0 8 (opd 0x60 0x300 3 2 ||| BitVec.ofNat 1024 (2 ^ 36 * 2 ^ 768))) = none := by decide +kernel

theorem test_hyp_tastes :
    Sys2Proof.Machine.tasted vintageCtx = true ∧ TileSampled vintageCtx ⟨0, 0, 0, 0⟩ ∧ rowOut (rCls vintage) false = false ∧
    dFmt (rDesc vintage .out0) = .e4m3 ∧ (XVal.fin true 3 2).isFin = true ∧ Fmt.e4m3.isNanCode 0x40 = false ∧
    (vintageCtx.tsCtrl.getLsbD 8 = true ∧ kept idle vintageCtx ⟨0, 0, 0, 0⟩ = true) ∧ Sys2Proof.Machine.tasted (ctxOf vintage) = false ∧
    (f32Val 0x7FC00000).isNan = true ∧ (f32Val 0x3F800000).isNan = false := by
  unfold TileSampled; decide +kernel

/-- AMAX done with its capture 2.0, its record wanted at 0x1000 for an empty row. -/
def summed : Ctx :=
  { doneCtx with it := amax ||| BitVec.ofNat 1024 (2 * 2 ^ 43 + 0x1000 * 2 ^ 352), cap := some (.fin false 2 1), smCfg := 4, emptyRows := 1 }

theorem test_hyp_postings :
    UpdatesSlot summed ∧ SummaryWanted summed ∧ ¬SummaryWanted { summed with emptyRows := 0 } ∧ ¬UpdatesSlot { summed with it := convert } ∧
    (rSummary summed.it = 2 ∧ rSumBase summed.it = 0x1000 ∧ (vAt slotReset 1).getLsbD 14 = false ∧ recordOk slotReset = true) ∧
    ((twinned []).twin.active = true ∧ (twinned []).twin.guest = entry0.guest) ∧
    (let q := recUpdate slotReset summed
     min (((vAt q 1).extractLsb' 0 4).toNat + 1) ((vAt q 0).extractLsb' 0 5).toNat = 1 ∧ 0x80 ≤ (recHist q 0).toNat) := by
  refine ⟨⟨by decide +kernel, .inr (by decide +kernel)⟩, by unfold SummaryWanted; decide +kernel, by unfold SummaryWanted; decide +kernel, ?_,
    by decide +kernel, by decide +kernel, by decide +kernel⟩
  rintro ⟨h, -⟩
  exact absurd h (by decide +kernel)

/-- SMAX writes 64 to 67 in a poisoned segment: byte 65 by an earlier unit, half of byte 64 now; byte 69 lies beside its areas. -/
def merging (merged : List Nat) : State :=
  { running0 { ctxOf smax with covered := [(65, 0xFF, 2)] } with
      poison := [1], merged := merged, mem := [(64, 0x11), (65, 2), (66, 3), (69, 4)], wfifo := [⟨false, 0, [(64, 0x0F, 7)]⟩] }

theorem test_hyp_poisoned_group :
    66 / 64 ∈ (merging []).poison ∧ (∃ w ∈ [((64 : Nat), (0x0F : Byte), (7 : Byte))], w.1 / 8 = 66 / 8 ∧ w.2.1.getLsbD 4 = false) ∧
    (∃ x ∈ outAreas smax, x.lo ≤ 66 ∧ 66 < x.hi) ∧ (∀ x ∈ outAreas smax, ¬(x.lo ≤ 69 ∧ 69 < x.hi)) ∧
    69 / 8 ∉ (merging []).merged ∧ 69 / 8 ∈ (merging [8]).merged ∧
    (∃ w ∈ [((65 : Nat), (0xFF : Byte), (2 : Byte))], w.1 = 65 ∧ w.2.1.getLsbD 3 = true) ∧
    (let l : ByteWrites := [(8, 0x0F, 1), (8, 0xF0, 0x20), (8, 0x10, 0)]
     ∃ w ∈ l, w.2.1.getLsbD 4 = true ∧ w.2.2.getLsbD 4 = false) := by
  refine ⟨by decide +kernel, ⟨_, List.mem_singleton.2 rfl, by decide, by decide⟩, ⟨⟨64, 68⟩, by decide +kernel⟩, by decide +kernel,
    by decide, by decide, ⟨_, List.mem_singleton.2 rfl, rfl, by decide⟩, by decide⟩

/-- Table 1-9: the merge keeps the earlier unit's byte and zeroes the rest of the group; where the group is merged already, the byte beside the
areas stays, and the unwritten element still becomes code 0. -/
theorem test_poisoned_group_is_zeroed :
    ([[], [8]].map fun m => match exec .writeAccept (merging m) with
      | .next t => [64, 65, 66, 69].map (memByte t.mem)
      | _ => []) = [[7#8, 2#8, 0#8, 0#8], [7#8, 2#8, 0#8, 4#8]] := by decide +kernel

/-- The last slice of pass 2 does not fit a full FIFO. -/
theorem test_hyp_waiting_slice :
    let c := ctxOf (smaxRow 1 4)
    let s := fullFifo (engaged .pass2 (smaxRow 1 4))
    let r := (sliceIdx s c 0 0).foldl (fun (p : RowAcc × ByteWrites) i =>
      ((writeStep s c p.1 i).1, p.2 ++ (writeStep s c p.1 i).2)) ((RowAcc.clear, []) : RowAcc × ByteWrites)
    slices s c ≤ 0 + 1 ∧ sliceBeats s c false ≤ 0 + 1 ∧ canBeat s 0 = true ∧ areasInside c.it = true ∧ 0 < (unitsOf false r.2).length := by
  decide +kernel

theorem test_hyp_source_15 :
    ([0x3F800000, 0x43000000, 0xC3000000].map fun (a : Word) =>
      let z := (f32Val a).mul (XVal.ofInt 0x5C551D94AE0BF85E (2 ^ 62) false)
      (decide (128 * 2 ^ 42 ≤ roundEvenInt (z.num * 2 ^ 42) z.den), decide (roundEvenInt (z.num * 2 ^ 42) z.den < -127 * 2 ^ 42))) =
      [(false, false), (true, false), (false, true)] := by decide +kernel

/-- 05_conversion.md, the example of R94: INT4 0xD with a = 0.1 and z = -5. -/
theorem test_dq_affine :
    let r := amax ||| ((9#1024 <<< 26 ||| 5#1024 <<< 30) <<< 384)
    let s := { idle with mem := [(0, 0x0D), (64, 0xCD), (65, 0xCC), (66, 0xCC), (67, 0x3D), (68, 0xFB), (69, 0xFF), (70, 0xFF), (71, 0xFF)] }
    (readInput s (ctxOf r) .in0 ⟨0, 0, 0, 0⟩).v = 0x3E4CCCCD#32 := by decide +kernel

/-- 06_vintage_and_tasting.md, slot 37 from cold: y = 5.75 under 2^6 stores 0x7C, y = 7.3 presents 467.2 and stores 0x7E with OVERFLOW
and SAT. -/
theorem test_slot_37_stores :
    (store .e4m3 true none (.fin false 368 1)).code = 0x7C ∧
    (store .e4m3 true none (.fin false 368 1)).flags = [.inexactNarrow] ∧
    (store .e4m3 true none ((f32Val 0x40E9999A).scale2 6)).code = 0x7E ∧
    (store .e4m3 true none ((f32Val 0x40E9999A).scale2 6)).ovf = true ∧
    (store .e4m3 true none ((f32Val 0x40E9999A).scale2 5)).code = 0x77 := by decide +kernel

/-- Table 6-5: the record of slot 37 after its two runs. -/
theorem test_table_6_5 :
    let c : Ctx := ctxOf (rmsNorm 0x4D400000 0 0)
    let r1 := recUpdate slotReset { c with cap := some (.fin false 23 4), vOut := 0xFA }
    let r2 := recUpdate r1 { c with cap := some (f32Val 0x40E9999A), vOut := 0xFA }
    (vAt r1 0, vAt r1 2, vAt r1 4) = (0x00000001#32, 0x00FA00FA#32, 0x000040B8#32) ∧
    (vAt r2 0, vAt r2 2, vAt r2 4) = (0x00000102#32, 0x00FA00FB#32, 0x40EA40B8#32) := by decide +kernel

/-- 09_normalisation.md, Table 9-4 and its rms row: BF16 stores of the products, and w = 50/4. -/
theorem test_table_9_4_stores :
    (store .bf16 false none ((f32Val 0x3F08D677).mul (.fin true 2 1))).code = 0xBF89 ∧
    (store .bf16 false none ((f32Val 0x3F08D677).mul (.fin true 1 1))).code = 0xBF09 ∧
    (store .bf16 false none ((f32Val 0x3F08D677).mul (.fin false 3 1))).code = 0x3FCD ∧
    round32 (.fin false 50 4) = 0x41480000#32 ∧ round32 (.fin false 56 16) = 0x40600000#32 := by decide +kernel

/-- R120: just below -14 the exact GELU is about -78 · 2^-149, so a result 2^-126 beyond a value nearer to 0 meets the bound. -/
theorem test_gelu_tail :
    let f := refBuiltin 19 (.zero false) (f32Val 0xC1600001) (.zero false)
    [0x80800001#32, 0x80000000#32, 0x80800060#32].map (fits f (absTol 24)) = [true, true, false] := by decide +kernel

/-- The casks of Table 9-4's row: 1 + 2 + 3 + 6 = 12 and its squares 50. -/
theorem test_cask_sums :
    let l : List Word := [0x3F800000, 0x40000000, 0x40400000, 0x40C00000]
    round32 (l.foldl Cask.addValue .clear).value = 0x41400000#32 ∧
    round32 (l.foldl (fun k x => k.addProduct x x) Cask.clear).value = 0x42480000#32 := by decide +kernel

/-- Table 6-2 and R4: the reserved bits 15 and 31:24 of UM_VS_POLICY read 0. -/
theorem test_policy_reserved_bits :
    (match exec (.registerWrite 0x6044 0xFFFFFFFF) idle with | .next t => readReg t 0x6044 | _ => 0) = 0x00FF7FFF#32 := by
  decide +kernel

/-- R20, R249: an aligned 64-bit read captures with its lower half and returns the captured word. -/
theorem test_wide_read :
    (match exec (.busSize 0xA070 8 none) { idle with power := { Power.reset with proto := 9, beats := 0x500000007 } } with
      | .next t => (t.rdataLow, t.rdata, t.power.beatHi) | _ => (0, 0, 0)) = (9#32, 7#32, 5#32) := by decide +kernel

/-- R174: a release with 520 mV starts nothing, and the reading of 750 mV that a tick brings does. -/
theorem test_release_waits_for_the_supply :
    (match exec (.resetRelease 520) State.reset with | .next t => (t.resetN, t.initRun) | _ => (false, true)) = (true, false) ∧
    (match exec (.ledgerTick 750) { State.reset with resetN := true, vddMv := 520 } with | .next t => t.initRun | _ => false) = true := by
  decide +kernel

/-- R226: a bundle of 256 against a path of 237 leaves 19; a path of 0 is clipped at 255. -/
theorem test_canary_margin :
    (match exec (.canarySample ⟨delays 256, delays 237⟩) { idle with power := { Power.reset with sampleC := 1024 } } with
      | .next t => (vAt t.health.can 9).reading | _ => 0) = 19#8 := by decide +kernel

/-- 11_configuration.md, R185: target 0x0000_E040 is UM_TS_CTRL, and 0x109 lies in its fields. -/
theorem test_overlay_target : (ctxRegMask 0xE040).map (fun m => 0x109#32 &&& ~~~m) = some 0 ∧ ctxRegMask 0xE054 = none := by
  decide +kernel

/-- Table 11-11, steps 4 to 6 on DQ4: a staged bank becomes active with the next generation. -/
theorem test_commit_generation :
    (match exec (.tableCommit 2) (table 2 0 true) with
      | .next t => (t.cellar.gen, t.cellar.actDq4, t.cellar.stDq4, t.cellar.emDq4B) | _ => (0, false, false, true)) =
      (2#32, true, false, false) := by decide +kernel

/-- 13_timing_and_power.md, R212: 209,715 counts give 20,480 beats; a count outside its range is CAL_OSC. -/
theorem test_oscillator_count :
    (match exec (.oscCountDone 0x33333 750) (calibrating false) with
      | .next t => (t.power.nombeats, t.unit, t.power.cCal) | _ => (0, .off, 0)) = (0x5000#16, .calibrate, 25#6) ∧
    (match exec (.oscCountDone 0x40001 750) (calibrating false) with
      | .next t => (t.faultCause, t.unit) | _ => (0, .off)) = (1#8, .fault) := by decide +kernel

/-- 13_timing_and_power.md, Table 13-7: a revoke applies half of 20,480 beats and counts. -/
theorem test_revoke :
    (match exec .sprintRevoke (powered .run { Power.reset with granted := true, sprintReq := true, nombeats := 0x5000, vsprint := true }) with
      | .next t => (t.power.eff, t.power.revCnt, t.power.sprintReq, t.power.holdoff) | _ => (0, 0, true, false)) =
      (0x2800#16, 1#32, false, true) := by decide +kernel

/-- 15_register_map.md, Table 15-11: a rejection at index 0x12 of guest 5 under UM_TR_CTRL = 0x4101 logs 0x1401_2B22 and leaves two
trace events once it has completed. -/
theorem test_table_15_11 :
    let x := { ring .active 0x13 with log2Size := 5, head := 0x12, started := 0x12, record := some ⟨rmsNorm 0x4C800000 0 0, false⟩ }
    let s := { idle.updGuest 5 (fun _ => x) with unit := .run, cur := some 5, arbPtr := 5, arbCredit := 1,
                                                 trace := { Trace.reset with ctrl := 0x4101 } }
    (match exec .itineraryCheck s with
      | .next t => (readReg t 0x101C, readReg t 0x1020, t.trace.queue.map fun e => (e.w1, e.w2, e.w3)) | _ => (0, 0, [])) =
      (0x14012B22#32, 1#32, [(0x330#32, 0x32201#32, 0x14012#32)]) := by decide +kernel

theorem test_table_15_11_completion :
    let x := { ring .active 0x13 with log2Size := 5, head := 0x12, started := 0x13 }
    let s := { idle.updGuest 5 (fun _ => x) with unit := .run, entries := [deadEntry 5 0x12 2 stBadRange 0x22],
                                                 trace := { Trace.reset with ctrl := 0x4101 } }
    (match exec (.itineraryComplete 5) s with
      | .next t => ([readReg t 0x2158, readReg t 0x215C], (t.guest 5).state, t.trace.queue.map fun e => (e.w1, e.w2, e.w3)) | _ => ([], .active, [])) =
      ([0x00122203#32, 0x00122283#32], .paused, [(0x50302#32, 0x22320012#32, 0#32)]) := by decide +kernel

/-- AMAX of one element 2.0 in one first pass: beat, and the capture waits in the engine. -/
theorem test_amax_beat :
    let s := { running0 (ctxOf amax) with mem := [(3, 0x40)], power := { Power.reset with osc := 0x30000 } }
    (match exec (.beat 0) s with
      | .next t => (t.power.beats, t.ctx0.map (·.nextRow)) | _ => (0, none)) = (1#64, some 1) := by decide +kernel

/-- AMAX done: the slot takes 2.0 as its newest value, and the guest's head moves. -/
theorem test_amax_completion :
    (match exec (.itineraryComplete 3) (running0 { doneCtx with cap := some (.fin false 2 1) }) with
      | .next t => (vAt (vAt t.vint.slots 0) 0, vAt (vAt t.vint.slots 0) 4, (t.guest 3).head, (t.guest 3).last) | _ => (0, 0, 0, 0)) =
      (1#32, 0x4000#32, 1#16, 0#32) := by decide +kernel

end Sys2Proof.Tests
end

section
/-! SUPPORT. The register port: an aligned write or read outside OFF reaches the register of its page and offset (R3, R20, R240). -/

namespace Sys2Proof.Machine

/-! ### Window offsets -/

theorem winOff_toNat {p o : Nat} (hp : p < 16) (ho : o < 0x1000) : (winOff p o).toNat = p * 0x1000 + o := by
  rw [winOff, BitVec.toNat_ofNat]
  omega

theorem offOf_winOff {p o : Nat} (hp : p < 16) (ho : o < 0x1000) : offOf (winOff p o) = o := by
  rw [offOf, winOff_toNat hp ho]
  omega

theorem pageOf_toNat (off : BitVec 16) : (pageOf off).toNat = off.toNat / 0x1000 := by
  have := off.isLt
  simp only [pageOf, BitVec.extractLsb'_toNat, Nat.shiftRight_eq_div_pow]
  omega

theorem pageOf_winOff {p o : Nat} (hp : p < 16) (ho : o < 0x1000) : pageOf (winOff p o) = BitVec.ofNat 4 p := by
  apply BitVec.eq_of_toNat_eq
  rw [pageOf_toNat, winOff_toNat hp ho, BitVec.toNat_ofNat]
  omega

/-- The place of an element of a word array. -/
theorem inArray_in {o base n : Nat} (h : base ≤ o ∧ o < base + 4 * n ∧ o % 4 = 0) : inArray o base n = true := by
  simpa [inArray, and_assoc] using h

/-- A place below an array or behind it is none of its own. -/
theorem inArray_out {o base n : Nat} (h : o < base ∨ base + 4 * n ≤ o) : inArray o base n = false := by
  simp only [inArray, Bool.and_eq_false_iff, decide_eq_false_iff_not]
  omega

/-! ### Writes -/

theorem regWrite_on {s : State} (hs : s.unit ≠ .off) (f : State → State) : regWrite s f = .next (f s) := by
  simp [regWrite, hs]

theorem exec_registerWrite {s : State} {off : BitVec 16} (hs : s.unit ≠ .off) (ha : off.toNat % 4 = 0) (v : Word) :
    exec (.registerWrite off v) s = .next (writeReg off v s) := by
  simp [exec, execRegisterWrite, aligned, ha, regWrite_on hs]

theorem exec_w1cClear {s : State} {off : BitVec 16} (hs : s.unit ≠ .off) (ha : off.toNat % 4 = 0) (v : Word) :
    exec (.w1cClear off v) s = .next (writeReg off v s) := by
  simp [exec, execW1cClear, aligned, ha, regWrite_on hs]

/-- A write of an offset that takes nothing, in OFF too. -/
theorem exec_registerWrite_nothing {s : State} {off : BitVec 16} {v : Word} (ha : off.toNat % 4 = 0) (h : writeReg off v s = s) :
    exec (.registerWrite off v) s = .next s := by
  simp [exec, execRegisterWrite, aligned, ha, regWrite, h]

theorem writeReg_header (p : PageId) {o : Nat} (ho : o < 0x040) (v : Word) (s : State) :
    writeReg (winOff p.toNat o) v s = writeHeader p o v s := by
  simp [writeReg, pageOf_winOff p.isLt (show o < 0x1000 by omega), offOf_winOff p.isLt (show o < 0x1000 by omega), ho]

/-! Writes of the header by register (R241, R245, R246). -/

theorem writeHeader_errClr (p : PageId) {v : Word} (hv : v.getLsbD 0 = true) (s : State) : writeHeader p 0x00C v s = errClear s p := by
  simp [writeHeader, hv]

theorem writeHeader_ien (p : PageId) (v : Word) (s : State) :
    writeHeader p 0x014 v s = s.updHdr p fun h => { h with ien := v.extractLsb' 0 16 } := rfl

theorem writeHeader_istat (p : PageId) (v : Word) (s : State) :
    writeHeader p 0x018 v s = s.updHdr p fun h => { h with istat := h.istat &&& ~~~(v.extractLsb' 0 16) } := rfl

theorem writeHeader_errlog (p : PageId) (v : Word) (s : State) :
    writeHeader p 0x01C v s = s.updHdr p fun h => { h with errValid := h.errValid && !v.getLsbD 11 } := rfl

theorem writeHeader_errCnt (p : PageId) (v : Word) (s : State) :
    writeHeader p 0x020 v s = s.updHdr p fun h => { h with errCnt := v } := rfl

theorem writeHeader_scratch (p : PageId) (v : Word) (s : State) :
    writeHeader p 0x024 v s = s.updHdr p fun h => { h with scratch := v } := rfl

/-- What a write beyond the header of page p does. -/
def writeBeyond (p o : Nat) (v : Word) (s : State) : State :=
  match p with
  | 0 => if o == 0x040 then gctrlWrite v s else s
  | 1 => writePage1 o v s
  | 2 => writePage2 o v s
  | 3 => writePage3 o v s
  | 4 => writePage4 o v s
  | 5 => if inArray o 0x800 512 then windowWrite (BitVec.ofNat 9 ((o - 0x800) / 4)) v s else s
  | 6 => writePage6 o v s
  | 7 => writePage7 o v s
  | 8 => writePage8 o v s
  | 9 => writePage9 o v s
  | 10 => writePage10 o v s
  | 11 => writePage11 o v s
  | 12 => writePage12 o v s
  | 13 => writePage13 o v s
  | 14 => writePage14 o v s
  | _ => writePage15 o v s

theorem writeReg_beyond {p o : Nat} (hp : p < 16) (ho : 0x040 ≤ o ∧ o < 0x1000) (v : Word) (s : State) :
    writeReg (winOff p o) v s = writeBeyond p o v s := by
  have ht : (pageOf (winOff p o)).toNat = p := by rw [pageOf_winOff hp ho.2, BitVec.toNat_ofNat, Nat.mod_eq_of_lt hp]
  have h : writeReg (winOff p o) v s = writeBeyond (pageOf (winOff p o)).toNat (offOf (winOff p o)) v s :=
    if_neg (by rw [offOf_winOff hp ho.2]; exact Nat.not_lt.2 ho.1)
  rw [h, ht, offOf_winOff hp ho.2]

/-! ### One header or one guest changed -/

/-- A change of one page header leaves the other headers and the rest of the state. -/
theorem next_updHdr {o : Out} {s : State} {p : PageId} {f : PageHdr → PageHdr} (h : o = .next (s.updHdr p f)) :
    ∃ t, o = .next t ∧ vAt t.hdr p = f (vAt s.hdr p) ∧ (∀ q, q ≠ p → vAt t.hdr q = vAt s.hdr q) ∧ { t with hdr := s.hdr } = s :=
  ⟨_, h, vAt_vPut_self .., fun _ hq => vAt_vPut_ne _ _ hq, rfl⟩

/-- A change of one guest leaves the others and the rest of the state. -/
theorem next_updGuest {o : Out} {s : State} {g : GuestId} {f : Guest → Guest} (h : o = .next (s.updGuest g f)) :
    ∃ t, o = .next t ∧ t.guest g = f (s.guest g) ∧ (∀ k, k ≠ g → t.guest k = s.guest k) ∧ { t with guests := s.guests } = s :=
  ⟨_, h, s.updGuest_guest_self g f, fun _ hk => s.updGuest_guest_ne f hk, rfl⟩

end Sys2Proof.Machine
end

section
/-! PROOF. Writes of 1 to W1C bits and err_clr (R3, R194, R196, R245). -/

namespace Sys2Proof.Machine

open Sys2Proof.Laws.PortAligned (winOff_aligned)

/-- A W1C write of a header register. -/
theorem w1cClear_header {s : State} (hs : s.unit ≠ .off) (p : PageId) {o : Nat} (ho : o < 0x040) (ha : o % 4 = 0) {v : Word} :
    exec (.w1cClear (winOff p.toNat o) v) s = .next (writeHeader p o v s) := by
  rw [exec_w1cClear hs (winOff_aligned _ _ ha), writeReg_header p ho]

theorem clearHalf_low (r : BitVec 64) (v : Word) : clearHalf r false v = r &&& ~~~(v.zeroExtend 64) := by
  simp [clearHalf]

/-- A write of UM_GS_FIRST of a guest. -/
theorem writePage2_first (g : GuestId) (v : Word) (s : State) :
    writePage2 (0x100 + 0x10 * g.toNat + 0xC) v s =
      s.updGuest g fun x => { x with first := if v.getLsbD 7 then x.first &&& 0xFFFFFF7F#32 else x.first } := by
  have hg := g.isLt
  have ha : inArray (0x100 + 0x10 * g.toNat + 0xC) 0x100 256 = true := inArray_in (by omega)
  have hi : (0x100 + 0x10 * g.toNat + 0xC - 0x100) / 0x10 = g.toNat := by omega
  have hm : (0x100 + 0x10 * g.toNat + 0xC - 0x100) % 0x10 = 0xC := by omega
  unfold writePage2
  rw [if_neg (by rw [beq_iff_eq]; omega), if_neg (by rw [beq_iff_eq]; omega), ha, hi, hm]
  cases v.getLsbD 7 <;> simp

/-- A write of UM_EX_GFLAGS of a guest. -/
theorem writePage8_flags (g : GuestId) (v : Word) (s : State) :
    writePage8 (0x100 + 4 * g.toNat) v s = s.updGuest g fun x => { x with flags := x.flags &&& ~~~(v.extractLsb' 0 12) } := by
  have hg := g.isLt
  have hi : (0x100 + 4 * g.toNat - 0x100) / 4 = g.toNat := by omega
  unfold writePage8
  rw [inArray_out (by omega), inArray_in (by omega), hi]
  simp

/-- The W1C write of UM_EX_GFLAGS of a guest. -/
theorem w1cClear_flags {s : State} (hs : s.unit ≠ .off) (g : GuestId) (v : Word) :
    exec (.w1cClear (winOff 8 (0x100 + 4 * g.toNat)) v) s =
      .next (s.updGuest g fun x => { x with flags := x.flags &&& ~~~(v.extractLsb' 0 12) }) := by
  rw [exec_w1cClear hs (winOff_aligned _ _ (by omega)), writeReg_beyond (by decide) (by omega), writeBeyond, writePage8_flags]

/-- The W1C write of UM_GS_FIRST of a guest. -/
theorem w1cClear_first {s : State} (hs : s.unit ≠ .off) (g : GuestId) (v : Word) :
    exec (.w1cClear (winOff 2 (0x100 + 0x10 * g.toNat + 0xC)) v) s =
      .next (s.updGuest g fun x => { x with first := if v.getLsbD 7 then x.first &&& 0xFFFFFF7F#32 else x.first }) := by
  rw [exec_w1cClear hs (winOff_aligned _ _ (by omega)), writeReg_beyond (by decide) (by omega), writeBeyond, writePage2_first]

/-- err_clr sets its own command bit. -/
theorem errClr_exec {s : State} (hs : s.unit ≠ .off) (p : PageId) (v : Word) : exec (.errClr p v) s = .next (errClear s p) := by
  simp only [exec, execErrClr, regWrite_on hs]
  exact congrArg Host.Outcome.next (writeHeader_errClr p (by simp) s)

/-- Settles O16: each W1C register by the equation of its write, and err_clr by that of the header. -/
theorem clearsTakeOnlyTheirBits : Obligations.ClearsTakeOnlyTheirBits := by
  refine ⟨fun s v hs => ⟨fun p => ?_, fun p => ?_, ?_, ?_, ?_, ?_, ?_, ?_, ?_, fun g =>
    ⟨next_updGuest (w1cClear_flags hs g v), next_updGuest (w1cClear_first hs g v)⟩⟩, fun s p v hs _ => next_updHdr (errClr_exec hs p v)⟩
  · exact next_updHdr ((w1cClear_header hs p (by decide) (by decide)).trans (congrArg _ (writeHeader_istat p v s)))
  · exact next_updHdr ((w1cClear_header hs p (by decide) (by decide)).trans (congrArg _ (writeHeader_errlog p v s)))
  · rw [exec_w1cClear hs (by decide), ← clearHalf_low]; rfl
  · exact exec_w1cClear hs (by decide) v
  · rw [exec_w1cClear hs (by decide), ← clearHalf_low]; rfl
  · exact exec_w1cClear hs (by decide) v
  · exact exec_w1cClear hs (by decide) v
  · exact exec_w1cClear hs (by decide) v
  · exact exec_w1cClear hs (by decide) v

end Sys2Proof.Machine
end

section
/-! SUPPORT. The words that registers read: their fields, their bits and their values (R3, R239). -/

namespace Sys2Proof.Machine

/-! ### Words of fields -/

/-- Fields of the given widths lie above bit b, in rising order and without overlap. -/
def FieldsFit : Nat → List (Nat × Nat) → List Nat → Prop
  | _, [], _ => True
  | _, _ :: _, [] => False
  | b, (p, x) :: l, w :: ws => b ≤ p ∧ x < 2 ^ w ∧ FieldsFit (p + w) l ws

theorem testBit_add_field {n b p x : Nat} (hn : n < 2 ^ b) (hp : b ≤ p) (k : Nat) :
    (n + x * 2 ^ p).testBit k = (n.testBit k || decide (p ≤ k) && x.testBit (k - p)) := by
  have hlt : n < 2 ^ p := Nat.lt_of_lt_of_le hn (Nat.pow_le_pow_right (by decide) hp)
  rw [Nat.add_comm, ← Nat.shiftLeft_eq, Nat.shiftLeft_add_eq_or_of_lt hlt, Nat.testBit_or, Nat.testBit_shiftLeft, Bool.or_comm]

theorem testBit_foldl_fields {l : List (Nat × Nat)} {ws : List Nat} {n b : Nat} (hn : n < 2 ^ b) (h : FieldsFit b l ws) (k : Nat) :
    (l.foldl (fun n x => n + x.2 * 2 ^ x.1) n).testBit k =
      (n.testBit k || l.any fun x => decide (x.1 ≤ k) && x.2.testBit (k - x.1)) := by
  induction l generalizing n b ws with
  | nil => simp
  | cons x t ih =>
    rcases ws with _ | ⟨w, ws⟩
    · exact h.elim
    · obtain ⟨p, x⟩ := x
      obtain ⟨hp, hx, ht⟩ := h
      have hlt : n + x * 2 ^ p < 2 ^ (p + w) := by
        have h1 : n < 2 ^ p := Nat.lt_of_lt_of_le hn (Nat.pow_le_pow_right (by decide) hp)
        have h2 : (x + 1) * 2 ^ p ≤ 2 ^ w * 2 ^ p := Nat.mul_le_mul_right _ hx
        rw [Nat.pow_add, Nat.mul_comm (2 ^ p)]
        rw [Nat.succ_mul] at h2
        omega
      rw [List.foldl_cons, ih hlt ht, testBit_add_field hn hp, List.any_cons, Bool.or_assoc]

/-- Each bit of a word of fields is a bit of the field it lies in. -/
theorem fields_bit {l : List (Nat × Nat)} (ws : List Nat) (h : FieldsFit 0 l ws) {k : Nat} (hk : k < 32) :
    (fields l).getLsbD k = l.any fun x => decide (x.1 ≤ k) && x.2.testBit (k - x.1) := by
  rw [fields, BitVec.getLsbD_ofNat, testBit_foldl_fields (b := 0) (by decide) h]
  simp [hk]

/-- No field lies below the first bit of the fit. -/
theorem FieldsFit.any_below {l : List (Nat × Nat)} {ws : List Nat} {b j : Nat} (h : FieldsFit b l ws) (hj : j < b) :
    (l.any fun x => decide (x.1 ≤ j) && x.2.testBit (j - x.1)) = false := by
  induction l generalizing b ws with
  | nil => rfl
  | cons x t ih =>
    rcases ws with _ | ⟨w, ws⟩
    · exact h.elim
    · obtain ⟨p, x⟩ := x
      obtain ⟨hp, -, ht⟩ := h
      rw [List.any_cons, ih ht (by omega)]
      simp [show ¬p ≤ j by omega]

/-- The bits of one field of a fit. -/
theorem FieldsFit.any_field {l : List (Nat × Nat)} {ws : List Nat} {b p x w k : Nat} (h : FieldsFit b l ws)
    (hm : ((p, x), w) ∈ l.zip ws) (hk : k < w) :
    b ≤ p ∧ (l.any fun y => decide (y.1 ≤ p + k) && y.2.testBit (p + k - y.1)) = x.testBit k := by
  induction l generalizing b ws with
  | nil => simp at hm
  | cons y t ih =>
    rcases ws with _ | ⟨v, ws⟩
    · exact h.elim
    · obtain ⟨q, y⟩ := y
      obtain ⟨hq, hy, ht⟩ := h
      rcases List.mem_cons.1 hm with e | hm
      · cases e
        rw [List.any_cons, ht.any_below (by omega)]
        simp [hq]
      · obtain ⟨hp, e⟩ := ih ht hm
        have hlt : y < 2 ^ (p + k - q) := Nat.lt_of_lt_of_le hy (Nat.pow_le_pow_right (by decide) (by omega))
        rw [List.any_cons, e, Nat.testBit_lt_two_pow hlt]
        simp [show b ≤ p by omega]

/-- A field of a word, read out. -/
theorem fields_field {l : List (Nat × Nat)} {ws : List Nat} {p x w : Nat} (h : FieldsFit 0 l ws) (hm : ((p, x), w) ∈ l.zip ws)
    (hw : p + w ≤ 32) : (fields l).extractLsb' p w = BitVec.ofNat w x := by
  apply BitVec.eq_of_getLsbD_eq
  intro k hk
  rw [BitVec.getLsbD_extractLsb', BitVec.getLsbD_ofNat, fields_bit ws h (by omega), (h.any_field hm hk).2]

/-- A bit of a word, read out. -/
theorem fields_flag {l : List (Nat × Nat)} {ws : List Nat} {p : Nat} {b : Bool} (h : FieldsFit 0 l ws)
    (hm : ((p, b01 b), 1) ∈ l.zip ws) (hp : p < 32) : (fields l).getLsbD p = b := by
  rw [fields_bit ws h hp]
  exact ((h.any_field hm (Nat.zero_lt_one)).2).trans (by cases b <;> rfl)

/-- A bit outside every field is 0. -/
theorem FieldsFit.any_gap {l : List (Nat × Nat)} {ws : List Nat} {b k : Nat} (h : FieldsFit b l ws)
    (hk : ∀ y ∈ (l.map Prod.fst).zip ws, k < y.1 ∨ y.1 + y.2 ≤ k) :
    (l.any fun x => decide (x.1 ≤ k) && x.2.testBit (k - x.1)) = false := by
  induction l generalizing b ws with
  | nil => rfl
  | cons x t ih =>
    rcases ws with _ | ⟨w, ws⟩
    · exact h.elim
    · obtain ⟨p, x⟩ := x
      obtain ⟨-, hx, ht⟩ := h
      rw [List.any_cons, ih ht fun y hy => hk y (List.mem_cons_of_mem _ hy), Bool.or_false]
      rcases hk (p, w) (List.mem_cons_self ..) with hlt | hge
      · simp [Nat.not_le.2 hlt]
      · have hlt : x < 2 ^ (k - p) := Nat.lt_of_lt_of_le hx (Nat.pow_le_pow_right (by decide) (by omega))
        simp [Nat.testBit_lt_two_pow hlt]

/-- Bits that a mask names outside every field are 0; the fields stand at the places ps. -/
theorem fields_reserved {l : List (Nat × Nat)} {ws : List Nat} (h : FieldsFit 0 l ws) (ps : List Nat) (hp : l.map Prod.fst = ps) {m : Word}
    (hm : ∀ k, k < 32 → m.getLsbD k = true → ∀ y ∈ ps.zip ws, k < y.1 ∨ y.1 + y.2 ≤ k) : fields l &&& m = 0 := by
  subst hp
  apply BitVec.eq_of_getLsbD_eq
  intro k hk
  rw [BitVec.getLsbD_and, fields_bit ws h hk]
  cases e : m.getLsbD k
  · simp
  · rw [h.any_gap (hm k hk e)]
    simp

/-- The value of a word of two fields that fit it. -/
theorem fields_toNat₂ {a b p : Nat} (h : a + b * 2 ^ p < 2 ^ 32) : (fields [(0, a), (p, b)]).toNat = a + b * 2 ^ p := by
  rw [fields, BitVec.toNat_ofNat]
  simpa using Nat.mod_eq_of_lt h

theorem fields_toNat₃ {a b c p q : Nat} (h : a + b * 2 ^ p + c * 2 ^ q < 2 ^ 32) :
    (fields [(0, a), (p, b), (q, c)]).toNat = a + b * 2 ^ p + c * 2 ^ q := by
  rw [fields, BitVec.toNat_ofNat]
  simpa using Nat.mod_eq_of_lt h

theorem fields_toNat₄ {a b c d p q r : Nat} (h : a + b * 2 ^ p + c * 2 ^ q + d * 2 ^ r < 2 ^ 32) :
    (fields [(0, a), (p, b), (q, c), (r, d)]).toNat = a + b * 2 ^ p + c * 2 ^ q + d * 2 ^ r := by
  rw [fields, BitVec.toNat_ofNat]
  simpa using Nat.mod_eq_of_lt h

theorem b01_lt (b : Bool) : b01 b < 2 ^ 1 := by cases b <;> decide

theorem b01_testBit (b : Bool) (j : Nat) : (b01 b).testBit j = (decide (j = 0) && b) := by
  cases b <;> cases j <;> simp [b01, Nat.testBit_succ]

/-! ### Words of truth values -/

theorem testBit_foldl_bits (f : Nat → Bool) (n k : Nat) :
    ((List.range n).foldl (fun m k => m + b01 (f k) * 2 ^ k) 0).testBit k = (decide (k < n) && f k) ∧
    (List.range n).foldl (fun m k => m + b01 (f k) * 2 ^ k) 0 < 2 ^ n := by
  induction n with
  | zero => simp
  | succ n ih =>
    obtain ⟨hb, hlt⟩ := ih
    rw [List.range_succ, List.foldl_append, List.foldl_cons, List.foldl_nil]
    refine ⟨?_, ?_⟩
    · rw [testBit_add_field hlt (Nat.le_refl n), hb]
      rw [b01_testBit]
      rcases Nat.lt_trichotomy k n with h | rfl | h
      · simp [h, Nat.lt_succ_of_lt h, Nat.not_le.2 h]
      · rw [Nat.sub_self]; simp
      · simp [Nat.not_lt.2 (Nat.le_of_lt h), Nat.not_lt.2 (show n + 1 ≤ k from h), show k - n ≠ 0 by omega]
    · have := b01_lt (f n)
      rw [Nat.pow_succ]
      rcases Nat.lt_succ_iff_lt_or_eq.1 this with h | h
      · rw [Nat.lt_one_iff.1 h]; omega
      · rw [h]; omega

/-- Bit k of a word of truth values is the k-th of them. -/
theorem bits32_bit (f : Nat → Bool) {k : Nat} (hk : k < 32) : (bits32 f).getLsbD k = f k := by
  rw [bits32, BitVec.getLsbD_ofNat, (testBit_foldl_bits f 32 k).1]
  simp [hk]

/-! ### Other words -/

theorem half_low_bit (v : BitVec 64) {k : Nat} (hk : k < 32) : (half v false).getLsbD k = v.getLsbD k := by
  simp [half, hk]

theorem half_high_bit (v : BitVec 64) {k : Nat} (hk : k < 32) : (half v true).getLsbD k = v.getLsbD (32 + k) := by
  simp [half, hk]

theorem zeroExtend_toNat {w : Nat} (x : BitVec w) (hw : w ≤ 32) : (x.zeroExtend 32).toNat = x.toNat :=
  BitVec.toNat_setWidth_of_le hw

theorem bit1_toNat (b : Bool) : (bit1 b).toNat = if b then 1 else 0 := by cases b <;> rfl

/-- The low bits of a word, read back. -/
theorem zeroExtend_extract (v : Word) (n : Nat) {m : Word} (hm : m = BitVec.ofNat 32 (2 ^ n - 1)) :
    (v.extractLsb' 0 n).zeroExtend 32 = v &&& m := by
  subst hm
  apply BitVec.eq_of_getLsbD_eq
  intro k hk
  simp only [BitVec.getLsbD_setWidth, BitVec.getLsbD_extractLsb', BitVec.getLsbD_and, BitVec.getLsbD_ofNat, Nat.testBit_two_pow_sub_one,
    hk, decide_true, Bool.true_and, Nat.zero_add]
  exact Bool.and_comm ..

/-- A word whose every bit is held, read back. -/
theorem and_full (v : Word) : v = v &&& 0xFFFFFFFF := BitVec.and_allOnes.symm

/-! ### Reads by page -/

/-- What a read beyond the header of page p returns. -/
def readBeyond (p : Nat) (s : State) (o : Nat) : Word :=
  match p with
  | 0 => if o == 0x044 then gstatWord s else 0
  | 1 => readPage1 s o
  | 2 => readPage2 s o
  | 3 => readPage3 s o
  | 4 => readPage4 s o
  | 5 => if inArray o 0x800 512 then windowRead s.cellar (BitVec.ofNat 9 ((o - 0x800) / 4)) else 0
  | 6 => readPage6 s o
  | 7 => readPage7 s o
  | 8 => readPage8 s o
  | 9 => readPage9 s o
  | 10 => readPage10 s o
  | 11 => readPage11 s o
  | 12 => readPage12 s o
  | 13 => readPage13 s o
  | 14 => readPage14 s o
  | _ => readPage15 s o

/-- Outside OFF a read beyond the header is one of its page. -/
theorem readReg_beyond {s : State} (hs : s.unit ≠ .off) {p o : Nat} (hp : p < 16) (ho : 0x040 ≤ o ∧ o < 0x1000) :
    readReg s (winOff p o) = readBeyond p s o := by
  have ht : (pageOf (winOff p o)).toNat = p := by rw [pageOf_winOff hp ho.2, BitVec.toNat_ofNat, Nat.mod_eq_of_lt hp]
  have h : readReg s (winOff p o) = readBeyond (pageOf (winOff p o)).toNat s (offOf (winOff p o)) :=
    (if_neg (by rw [beq_iff_eq]; exact hs)).trans (if_neg (by rw [offOf_winOff hp ho.2]; exact Nat.not_lt.2 ho.1))
  rw [h, ht, offOf_winOff hp ho.2]

/-- What a state reads after a write that keeps the unit state. -/
theorem readReg_after {s t : State} (hs : s.unit ≠ .off) (hu : t.unit = s.unit) {p o : Nat} (hp : p < 16) (ho : 0x040 ≤ o ∧ o < 0x1000)
    {w : Word} (h : readBeyond p t o = w) : readReg t (winOff p o) = w :=
  (readReg_beyond (by rw [hu]; exact hs) hp ho).trans h

theorem readReg_header {s : State} (hs : s.unit ≠ .off) (p : PageId) {o : Nat} (ho : o < 0x040) :
    readReg s (winOff p.toNat o) = readHeader s p o := by
  have h := show o < 0x1000 by omega
  simp [readReg, pageOf_winOff p.isLt h, offOf_winOff p.isLt h, hs, ho]

end Sys2Proof.Machine
end

section
/-! PROOF. The RW registers without a command of their own: what a write stores, where it is refused, what reads back (R3, R4, R179, R246,
Table 11-5). -/

namespace Sys2Proof.Machine

open Sys2Proof.Laws.PortAligned (winOff_aligned)

/-! ### Writes that the unit state judges -/

theorem stateWrite_legal {s : State} {p : PageId} {o : BitVec 12} {legal : Bool} {act : State → State} (h : legal = true) :
    stateWrite s p o legal act = act s := by
  rw [stateWrite, if_pos h]

theorem stateWrite_illegal {s : State} {p : PageId} {o : BitVec 12} {legal : Bool} {act : State → State} (h : legal = false) :
    stateWrite s p o legal act = refuseState s p o := by
  simp [stateWrite, h]

theorem refuseState_logged (s : State) (p : PageId) {o : Nat} (ho : o < 0x1000) :
    Logged s (refuseState s p (BitVec.ofNat 12 o)) p 0x81 stIllegal (BitVec.ofNat 20 o) := by
  have h : (BitVec.ofNat 12 o).zeroExtend 20 = BitVec.ofNat 20 o := by
    apply BitVec.eq_of_toNat_eq
    simp only [BitVec.truncate_eq_setWidth, BitVec.toNat_setWidth, BitVec.toNat_ofNat]
    omega
  rw [refuseState, h]
  exact logEvent_spec ..

theorem running_ne_off {s : State} (h : s.running = true) : s.unit ≠ .off := by
  intro e
  simp [State.running, e] at h

theorem running_or_fault_iff {s : State} : s.running = true ∨ s.unit = .fault ↔ s.rwOpen = true := by
  simp [State.rwOpen]

theorem rwOpen_ne_off {s : State} (h : s.rwOpen = true) : s.unit ≠ .off := by
  intro e
  simp [State.rwOpen, State.running, e] at h

/-- A write that its unit state takes. -/
theorem exec_stateWrite {s : State} {off : BitVec 16} {v : Word} {p : PageId} {o : BitVec 12} {legal : Bool} {act : State → State}
    (hs : s.unit ≠ .off) (hl : legal = true) (ha : off.toNat % 4 = 0) (hw : writeReg off v s = stateWrite s p o legal act) :
    exec (.registerWrite off v) s = .next (act s) := by
  rw [exec_registerWrite hs ha, hw, stateWrite_legal hl]

/-! ### The registers of the list -/

/-- The RW registers without a command of their own, with the bits they hold (Tables 6-3, 6-4, 6-7, 11-8 to 11-10, 12-7, 12-10, 13-5, 14-4 to
14-6, 15-3, 15-6). -/
inductive PlainReg : BitVec 16 → Word → Prop
  | ien (p : PageId) : PlainReg (winOff p.toNat 0x014) 0xFFFF
  | errCnt (p : PageId) : PlainReg (winOff p.toNat 0x020) 0xFFFFFFFF
  | scratch (p : PageId) : PlainReg (winOff p.toNat 0x024) 0xFFFFFFFF
  | wdog (g : GuestId) : PlainReg (winOff 1 (0x100 + 0x20 * g.toNat + 8)) 0xFFFF
  | evCnt (k : BitVec 4) (hk : k.toNat < 12) : PlainReg (winOff 8 (0x080 + 4 * k.toNat)) 0xFFFFFFFF
  | ctSel : PlainReg (winOff 4 0x044) 0x0000013F
  | vsRange : PlainReg (winOff 6 0x040) 0x03FF03FF
  | vsPolicy : PlainReg (winOff 6 0x044) 0x00FF7FFF
  | vsColdrd : PlainReg (winOff 6 0x04C) 0xFFFFFFFF
  | vwXbase : PlainReg (winOff 7 0x048) 0x03FFFFFF
  | exFmask : PlainReg (winOff 8 0x044) 0x00000FFF
  | exNan : PlainReg (winOff 8 0x048) 0xFFFFFFFF
  | exOvf : PlainReg (winOff 8 0x04C) 0xFFFFFFFF
  | exSram : PlainReg (winOff 8 0x050) 0xFFFFFFFF
  | smCfg : PlainReg (winOff 9 0x040) 0x0000001F
  | pwCtrl : PlainReg (winOff 10 0x040) 0x00000001
  | pwTthr : PlainReg (winOff 10 0x060) 0x000003FF
  | pwRevCnt : PlainReg (winOff 10 0x06C) 0xFFFFFFFF
  | pwProto : PlainReg (winOff 10 0x070) 0xFFFFFFFF
  | hlCwarn : PlainReg (winOff 11 0x080) 0x000000FF
  | hlLowThr : PlainReg (winOff 11 0x098) 0xFFFFFFFF
  | biSel : PlainReg (winOff 12 0x048) 0x000000FF
  | twMisCnt : PlainReg (winOff 13 0x050) 0xFFFFFFFF
  | twUncmp : PlainReg (winOff 13 0x054) 0xFFFFFFFF
  | tsCtrl : PlainReg (winOff 14 0x040) 0x0000013F
  | tsConvThr : PlainReg (winOff 14 0x044) 0xFFFFFFFF
  | tsFnThr : PlainReg (winOff 14 0x048) 0xFFFFFFFF
  | tsSel : PlainReg (winOff 14 0x04C) 0x000103FF
  | tsSaveBase : PlainReg (winOff 14 0x054) 0x03FFFFFF
  | trCtrl : PlainReg (winOff 15 0x040) 0x0000FF03
  | trLost : PlainReg (winOff 15 0x050) 0xFFFFFFFF

theorem eq_winOff {off : BitVec 16} {p o : Nat} (hp : p < 16) (ho : o < 0x1000) (h : off.toNat = p * 0x1000 + o) : off = winOff p o :=
  BitVec.eq_of_toNat_eq (by rw [h, winOff_toNat hp ho])

theorem PlainReg.of_toNat {off : BitVec 16} {k : Nat} {m : Word} (h : off.toNat = k) (r : PlainReg (BitVec.ofNat 16 k) m) :
    PlainReg off m := by
  rwa [← h, BitVec.ofNat_toNat, BitVec.setWidth_eq] at r

/-- An offset that holds RW bits is that of a register of the list. -/
theorem PlainReg.of_rwMask {off : BitVec 16} {m : Word} (h : rwMask off.toNat = some m) : PlainReg off m := by
  have hlt := off.isLt
  have hp : (pageOf off).toNat = off.toNat / 0x1000 := pageOf_toNat off
  unfold rwMask at h
  split at h
  · next e =>
    cases h
    rw [eq_winOff (off := off) (pageOf off).isLt (o := 0x014) (by decide) (by omega)]
    exact .ien _
  split at h
  · next e =>
    cases h
    rcases e with e | e
    · rw [eq_winOff (off := off) (pageOf off).isLt (o := 0x020) (by decide) (by omega)]
      exact .errCnt _
    · rw [eq_winOff (off := off) (pageOf off).isLt (o := 0x024) (by decide) (by omega)]
      exact .scratch _
  split at h
  · next e =>
    cases h
    obtain ⟨h1, h2, h3⟩ := e
    have hg : (BitVec.ofNat 6 ((off.toNat - 0x1100) / 0x20)).toNat = (off.toNat - 0x1100) / 0x20 := by
      rw [BitVec.toNat_ofNat]
      omega
    have r := PlainReg.wdog (BitVec.ofNat 6 ((off.toNat - 0x1100) / 0x20))
    rw [hg] at r
    rwa [eq_winOff (p := 1) (o := 0x100 + 0x20 * ((off.toNat - 0x1100) / 0x20) + 8) (off := off) (by decide) (by omega) (by omega)]
  split at h
  · next e =>
    cases h
    simp only [offIn, Bool.and_eq_true, decide_eq_true_eq, beq_iff_eq] at e
    have hk : (BitVec.ofNat 4 ((off.toNat - 0x8080) / 4)).toNat = (off.toNat - 0x8080) / 4 := by
      rw [BitVec.toNat_ofNat]
      omega
    have r := PlainReg.evCnt (BitVec.ofNat 4 ((off.toNat - 0x8080) / 4)) (by omega)
    rw [hk] at r
    rwa [eq_winOff (p := 8) (o := 0x080 + 4 * ((off.toNat - 0x8080) / 4)) (off := off) (by decide) (by omega) (by omega)]
  split at h
  · next e => cases h; exact .of_toNat e .ctSel
  · next e => cases h; exact .of_toNat e .vsRange
  · next e => cases h; exact .of_toNat e .vsPolicy
  · next e => cases h; exact .of_toNat e .vsColdrd
  · next e => cases h; exact .of_toNat e .vwXbase
  · next e => cases h; exact .of_toNat e .exFmask
  · next e => cases h; exact .of_toNat e .exNan
  · next e => cases h; exact .of_toNat e .exOvf
  · next e => cases h; exact .of_toNat e .exSram
  · next e => cases h; exact .of_toNat e .smCfg
  · next e => cases h; exact .of_toNat e .pwCtrl
  · next e => cases h; exact .of_toNat e .pwTthr
  · next e => cases h; exact .of_toNat e .pwRevCnt
  · next e => cases h; exact .of_toNat e .pwProto
  · next e => cases h; exact .of_toNat e .hlCwarn
  · next e => cases h; exact .of_toNat e .hlLowThr
  · next e => cases h; exact .of_toNat e .biSel
  · next e => cases h; exact .of_toNat e .twMisCnt
  · next e => cases h; exact .of_toNat e .twUncmp
  · next e => cases h; exact .of_toNat e .tsCtrl
  · next e => cases h; exact .of_toNat e .tsConvThr
  · next e => cases h; exact .of_toNat e .tsFnThr
  · next e => cases h; exact .of_toNat e .tsSel
  · next e => cases h; exact .of_toNat e .tsSaveBase
  · next e => cases h; exact .of_toNat e .trCtrl
  · next e => cases h; exact .of_toNat e .trLost
  · cases h

/-! ### What a write stores reads back -/

/-- What a write of an RW register does in each unit state: the word it reads afterwards, or the refusal. -/
def WritesBack (s : State) (off : BitVec 16) (m v : Word) : Prop :=
  (rwTakes off.toNat s.unit = true → ∃ t, exec (.registerWrite off v) s = .next t ∧ readReg t off =
    (if off = 0xE040#16 ∧ 16 < (v.extractLsb' 1 5).toNat then (v &&& 0x101#32) ||| 0x20#32 else v &&& m)) ∧
  (rwTakes off.toNat s.unit = false →
    ∃ t, exec (.registerWrite off v) s = .next t ∧ Logged s t (pageOf off) 0x81 stIllegal (BitVec.ofNat 20 (offOf off)))

/-- A register whose write the unit state judges. -/
theorem writesBack_judged {s : State} {p o : Nat} {m v : Word} {legal : Bool} {act : State → State} (hs : s.unit ≠ .off) (hp : p < 16)
    (ho : 0x040 ≤ o ∧ o < 0x1000) (ha : o % 4 = 0)
    (hw : writeReg (winOff p o) v s = stateWrite s (BitVec.ofNat 4 p) (BitVec.ofNat 12 o) legal act)
    (hl : rwTakes (p * 0x1000 + o) s.unit = legal) (hu : (act s).unit = s.unit)
    (hr : readBeyond p (act s) o =
      if p * 0x1000 + o = 0xE040 ∧ 16 < (v.extractLsb' 1 5).toNat then (v &&& 0x101#32) ||| 0x20#32 else v &&& m) :
    WritesBack s (winOff p o) m v := by
  have he : winOff p o = 0xE040#16 ↔ p * 0x1000 + o = 0xE040 :=
    ⟨fun e => by rw [← winOff_toNat hp ho.2, e]; rfl, fun e => BitVec.eq_of_toNat_eq (by rw [winOff_toNat hp ho.2, e]; rfl)⟩
  rw [WritesBack, exec_registerWrite hs (winOff_aligned _ _ ha), hw, winOff_toNat hp ho.2, hl, pageOf_winOff hp ho.2, offOf_winOff hp ho.2]
  simp only [he]
  exact ⟨fun h => ⟨_, rfl, by rw [stateWrite_legal h]; exact readReg_after hs hu hp ho hr⟩,
    fun h => ⟨_, rfl, by rw [stateWrite_illegal h]; exact refuseState_logged s _ ho.2⟩⟩

/-- A register that every state but OFF takes. -/
theorem writesBack_always {s : State} {p o : Nat} {m v : Word} (hs : s.unit ≠ .off) (hp : p < 16) (ho : o < 0x1000) (ha : o % 4 = 0)
    (hl : rwTakes (p * 0x1000 + o) s.unit = (s.unit != .off)) (hne : p * 0x1000 + o ≠ 0xE040)
    (hr : readReg (writeReg (winOff p o) v s) (winOff p o) = v &&& m) : WritesBack s (winOff p o) m v := by
  have ht : rwTakes (winOff p o).toNat s.unit = true := by rw [winOff_toNat hp ho, hl]; simpa using hs
  refine ⟨fun _ => ⟨_, exec_registerWrite hs (winOff_aligned _ _ ha) v, ?_⟩, fun h => ?_⟩
  · rw [hr, if_neg fun h => hne (by rw [← winOff_toNat hp ho, h.1]; rfl)]
  · rw [ht] at h
    cases h

end Sys2Proof.Machine
end

section
/-! PROOF. What each RW register stores and reads back (R3, R179, R246, Table 11-5). -/

namespace Sys2Proof.Machine

open Sys2Proof.Laws.PortAligned (winOff_aligned)

/-! ### Registers of the header, of guests and of event counters -/

theorem rwTakes_header {off : Nat} (h : off % 0x1000 < 0x040) (u : UnitState) : rwTakes off u = (u != .off) := by
  simp [rwTakes, h]

/-- Pages other than 8 and 10 to 13 take RW writes in the running states. -/
theorem rwTakes_running {p o : Nat} (ho : 0x040 ≤ o ∧ o < 0x1000) (h : p ≠ 8 ∧ (p < 10 ∨ 13 < p)) (hne : p * 0x1000 + o ≠ 0xF050)
    (s : State) : rwTakes (p * 0x1000 + o) s.unit = s.running := by
  rw [rwTakes, if_neg (by omega), if_neg (by omega)]
  rfl

/-- Pages 10 to 13 take them in FAULT too. -/
theorem rwTakes_rwOpen {p o : Nat} (ho : 0x040 ≤ o ∧ o < 0x1000) (h : 10 ≤ p ∧ p ≤ 13) (s : State) :
    rwTakes (p * 0x1000 + o) s.unit = s.rwOpen := by
  rw [rwTakes, if_neg (by omega), if_pos (by omega)]
  rfl

theorem writesBack_header {s : State} (hs : s.unit ≠ .off) (p : PageId) {o : Nat} (ho : o < 0x040) (ha : o % 4 = 0) {m v : Word}
    (hr : readHeader (writeHeader p o v s) p o = v &&& m) (hu : (writeHeader p o v s).unit = s.unit) :
    WritesBack s (winOff p.toNat o) m v := by
  refine writesBack_always hs p.isLt (by omega) ha (rwTakes_header (by omega) _) (by omega) ?_
  rw [writeReg_header p ho, readReg_header (by rw [hu]; exact hs) p ho, hr]

/-- A write of UM_GQ_WDOG of a guest, judged by the unit state (R198). -/
theorem writeReg_wdog (g : GuestId) (v : Word) (s : State) :
    writeReg (winOff 1 (0x100 + 0x20 * g.toNat + 8)) v s =
      stateWrite s 1 (BitVec.ofNat 12 (0x100 + 0x20 * g.toNat + 8)) s.running fun s =>
        s.updGuest g fun x => { x with limitUs := v.extractLsb' 0 16 } := by
  have hg := g.isLt
  have hi : (0x100 + 0x20 * g.toNat + 8 - 0x100) / 0x20 = g.toNat := by omega
  have hm : (0x100 + 0x20 * g.toNat + 8 - 0x100) % 0x20 = 8 := by omega
  rw [writeReg_beyond (by decide) (by omega), writeBeyond, writePage1, if_pos (inArray_in (by omega)), hi, hm,
    BitVec.ofNat_toNat, BitVec.setWidth_eq]
  rfl

/-- A write of an event counter. -/
theorem writeReg_evCnt {k : BitVec 4} (hk : k.toNat < 12) (v : Word) (s : State) :
    writeReg (winOff 8 (0x080 + 4 * k.toNat)) v s = { s with exc := { s.exc with evCnt := vPut s.exc.evCnt k v } } := by
  have hi : (0x080 + 4 * k.toNat - 0x080) / 4 = k.toNat := by omega
  rw [writeReg_beyond (by decide) (by omega), writeBeyond]
  unfold writePage8
  rw [if_pos (inArray_in (by omega)), hi, BitVec.ofNat_toNat, BitVec.setWidth_eq]

theorem readPage1_wdog (s : State) (g : GuestId) : readPage1 s (0x100 + 0x20 * g.toNat + 8) = (s.guest g).limitUs.zeroExtend 32 := by
  have hg := g.isLt
  have hi : (0x100 + 0x20 * g.toNat + 8 - 0x100) / 0x20 = g.toNat := by omega
  have hm : (0x100 + 0x20 * g.toNat + 8 - 0x100) % 0x20 = 8 := by omega
  rw [readPage1, if_neg (by rw [beq_iff_eq]; omega), if_pos (inArray_in (by omega)), hi, hm,
    BitVec.ofNat_toNat, BitVec.setWidth_eq]
  rfl

theorem readPage8_evCnt (s : State) {k : BitVec 4} (hk : k.toNat < 12) : readPage8 s (0x080 + 4 * k.toNat) = vAt s.exc.evCnt k := by
  have hi : (0x080 + 4 * k.toNat - 0x080) / 4 = k.toNat := by omega
  unfold readPage8
  rw [if_pos (inArray_in (by omega)), hi, BitVec.ofNat_toNat, BitVec.setWidth_eq]

theorem writesBack_wdog {s : State} (hs : s.unit ≠ .off) (g : GuestId) (v : Word) :
    WritesBack s (winOff 1 (0x100 + 0x20 * g.toNat + 8)) 0xFFFF v := by
  have hg := g.isLt
  refine writesBack_judged (legal := s.running) hs (by decide) (by omega) (by omega) (writeReg_wdog g v s)
    (rwTakes_running (by omega) (by decide) (by omega) s) (by rfl) ?_
  rw [if_neg (by omega), readBeyond, readPage1_wdog, State.updGuest_guest_self]
  exact zeroExtend_extract v 16 (by decide)

theorem writesBack_evCnt {s : State} (hs : s.unit ≠ .off) {k : BitVec 4} (hk : k.toNat < 12) (v : Word) :
    WritesBack s (winOff 8 (0x080 + 4 * k.toNat)) 0xFFFFFFFF v := by
  refine writesBack_always hs (by decide) (by omega) (by omega) ?_ (by omega) ?_
  · rw [rwTakes, if_pos (by omega)]
  · rw [writeReg_evCnt hk]
    refine readReg_after hs (by rfl) (by decide) (by omega) ?_
    rw [readBeyond, readPage8_evCnt _ hk, vAt_vPut_self]
    exact and_full v

/-! ### The registers at a fixed place: what a write stores -/

section

variable (v : Word) (s : State)

theorem writeReg_ctSel : writeReg (winOff 4 0x044) v s =
    stateWrite s 4 0x044 s.running fun s => { s with cellar :=
          { s.cellar with selTable := v.extractLsb' 0 4, selWindow := v.extractLsb' 4 2, selView := v.getLsbD 8 } } := by
  rw [writeReg_beyond (by decide) (by decide)]; rfl

theorem writeReg_vsRange : writeReg (winOff 6 0x040) v s =
    stateWrite s 6 0x040 s.running fun s => { s with vint :=
          { s.vint with rangeFirst := v.extractLsb' 0 10, rangeLast := v.extractLsb' 16 10 } } := by
  rw [writeReg_beyond (by decide) (by decide)]; rfl

theorem writeReg_vsPolicy : writeReg (winOff 6 0x044) v s =
    stateWrite s 6 0x044 s.running fun s => { s with vint := { s.vint with policy := v &&& 0x00FF7FFF#32 } } := by
  rw [writeReg_beyond (by decide) (by decide)]; rfl

theorem writeReg_vsColdrd : writeReg (winOff 6 0x04C) v s =
    stateWrite s 6 0x04C s.running fun s => { s with vint := { s.vint with coldrd := v } } := by
  rw [writeReg_beyond (by decide) (by decide)]; rfl

theorem writeReg_vwXbase : writeReg (winOff 7 0x048) v s =
    stateWrite s 7 0x048 s.running fun s => { s with vint := { s.vint with xbase := v.extractLsb' 0 26 } } := by
  rw [writeReg_beyond (by decide) (by decide)]; rfl

theorem writeReg_smCfg : writeReg (winOff 9 0x040) v s =
    stateWrite s 9 0x040 s.running fun s => { s with smCfg := v &&& 0x1F#32 } := by
  rw [writeReg_beyond (by decide) (by decide)]; rfl

theorem writeReg_pwCtrl : writeReg (winOff 10 0x040) v s =
    stateWrite s 10 0x040 s.rwOpen fun s => updReq { s with power := { s.power with sprintEn := v.getLsbD 0 } } := by
  rw [writeReg_beyond (by decide) (by decide)]; rfl

theorem writeReg_pwTthr : writeReg (winOff 10 0x060) v s =
    stateWrite s 10 0x060 s.rwOpen fun s => { s with power :=
          { s.power with tthr := v.extractLsb' 0 10, hot := decide ((v.extractLsb' 0 10).toNat ≤ s.power.tj.toNat) } } := by
  rw [writeReg_beyond (by decide) (by decide)]; rfl

theorem writeReg_pwRevCnt : writeReg (winOff 10 0x06C) v s =
    stateWrite s 10 0x06C s.rwOpen fun s => { s with power := { s.power with revCnt := v } } := by
  rw [writeReg_beyond (by decide) (by decide)]; rfl

theorem writeReg_pwProto : writeReg (winOff 10 0x070) v s =
    stateWrite s 10 0x070 s.rwOpen fun s => { s with power := { s.power with proto := v } } := by
  rw [writeReg_beyond (by decide) (by decide)]; rfl

theorem writeReg_hlCwarn : writeReg (winOff 11 0x080) v s =
    stateWrite s 11 0x080 s.rwOpen fun s => { s with health := { s.health with cwarn := v.extractLsb' 0 8 } } := by
  rw [writeReg_beyond (by decide) (by decide)]; rfl

theorem writeReg_hlLowThr : writeReg (winOff 11 0x098) v s =
    stateWrite s 11 0x098 s.rwOpen fun s => { s with health := { s.health with lowThr := v } } := by
  rw [writeReg_beyond (by decide) (by decide)]; rfl

theorem writeReg_biSel : writeReg (winOff 12 0x048) v s =
    stateWrite s 12 0x048 s.rwOpen fun s => { s with test := { s.test with biSel := v.extractLsb' 0 8 } } := by
  rw [writeReg_beyond (by decide) (by decide)]; rfl

theorem writeReg_twMisCnt : writeReg (winOff 13 0x050) v s =
    stateWrite s 13 0x050 s.rwOpen fun s => { s with twin := { s.twin with misCnt := v } } := by
  rw [writeReg_beyond (by decide) (by decide)]; rfl

theorem writeReg_twUncmp : writeReg (winOff 13 0x054) v s =
    stateWrite s 13 0x054 s.rwOpen fun s => { s with twin := { s.twin with uncmp := v } } := by
  rw [writeReg_beyond (by decide) (by decide)]; rfl

theorem writeReg_tsCtrl : writeReg (winOff 14 0x040) v s =
    stateWrite s 14 0x040 s.running fun s => { s with tasting := { s.tasting with ctrl := v &&& 0x13F#32 } } := by
  rw [writeReg_beyond (by decide) (by decide)]; rfl

theorem writeReg_tsConvThr : writeReg (winOff 14 0x044) v s =
    stateWrite s 14 0x044 s.running fun s => { s with tasting := { s.tasting with convThr := v } } := by
  rw [writeReg_beyond (by decide) (by decide)]; rfl

theorem writeReg_tsFnThr : writeReg (winOff 14 0x048) v s =
    stateWrite s 14 0x048 s.running fun s => { s with tasting := { s.tasting with fnThr := v } } := by
  rw [writeReg_beyond (by decide) (by decide)]; rfl

theorem writeReg_tsSel : writeReg (winOff 14 0x04C) v s =
    stateWrite s 14 0x04C s.running fun s => { s with tasting :=
          { s.tasting with selIndex := v.extractLsb' 0 10, selKind := v.getLsbD 16 } } := by
  rw [writeReg_beyond (by decide) (by decide)]; rfl

theorem writeReg_tsSaveBase : writeReg (winOff 14 0x054) v s =
    stateWrite s 14 0x054 s.running fun s => { s with tasting := { s.tasting with saveBase := v.extractLsb' 0 26 } } := by
  rw [writeReg_beyond (by decide) (by decide)]; rfl

theorem writeReg_trCtrl : writeReg (winOff 15 0x040) v s =
    stateWrite s 15 0x040 s.running fun s => { s with trace := { s.trace with ctrl := v &&& 0xFF03#32 } } := by
  rw [writeReg_beyond (by decide) (by decide)]; rfl

theorem writeReg_exFmask : writeReg (winOff 8 0x044) v s = { s with exc := { s.exc with fmask := v.extractLsb' 0 12 } } := by
  rw [writeReg_beyond (by decide) (by decide)]; rfl

theorem writeReg_exNan : writeReg (winOff 8 0x048) v s = { s with exc := { s.exc with nanCnt := v } } := by
  rw [writeReg_beyond (by decide) (by decide)]; rfl

theorem writeReg_exOvf : writeReg (winOff 8 0x04C) v s = { s with exc := { s.exc with ovfCnt := v } } := by
  rw [writeReg_beyond (by decide) (by decide)]; rfl

theorem writeReg_exSram : writeReg (winOff 8 0x050) v s = { s with exc := { s.exc with sramCnt := v } } := by
  rw [writeReg_beyond (by decide) (by decide)]; rfl

theorem writeReg_trLost : writeReg (winOff 15 0x050) v s = { s with trace := { s.trace with lost := v } } := by
  rw [writeReg_beyond (by decide) (by decide)]; rfl

end

/-! ### Words of several fields -/

/-- A bit of a field that holds its own place in v. -/
theorem ownField_bit (v : Word) (p w k : Nat) :
    (decide (p ≤ k) && (v.extractLsb' p w).toNat.testBit (k - p)) = (v.getLsbD k && (decide (p ≤ k) && decide (k < p + w))) := by
  rw [BitVec.testBit_toNat, BitVec.getLsbD_extractLsb']
  by_cases h : p ≤ k
  · rw [Nat.add_sub_cancel' h, decide_eq_decide.2 (show k - p < w ↔ k < p + w by omega), decide_eq_true h, Bool.true_and, Bool.true_and,
      Bool.and_comm]
  · rw [decide_eq_false h, Bool.false_and, Bool.false_and, Bool.and_false]

/-- A flag is a field of one bit. -/
theorem ownFlag (v : Word) (p : Nat) : b01 (v.getLsbD p) = (v.extractLsb' p 1).toNat := by
  apply Nat.eq_of_testBit_eq
  intro k
  rw [b01_testBit, BitVec.testBit_toNat, BitVec.getLsbD_extractLsb']
  by_cases h : k = 0
  · subst h
    simp
  · rw [decide_eq_false h, decide_eq_false (by omega), Bool.false_and, Bool.false_and]

theorem ctSel_readBack (v : Word) :
    fields [(0, (v.extractLsb' 0 4).toNat), (4, (v.extractLsb' 4 2).toNat), (8, b01 (v.getLsbD 8))] = v &&& 0x13F#32 := by
  have hm : ∀ k, k < 32 → (decide (0 ≤ k) && decide (k < 0 + 4) || (decide (4 ≤ k) && decide (k < 4 + 2) ||
      decide (8 ≤ k) && decide (k < 8 + 1))) = (0x13F#32).getLsbD k := by decide
  apply BitVec.eq_of_getLsbD_eq
  intro k hk
  rw [fields_bit [4, 2, 1] (by exact ⟨by decide, by omega, by decide, by omega, by decide, b01_lt _, trivial⟩) hk, ownFlag, BitVec.getLsbD_and, ← hm k hk]
  simp only [List.any_cons, List.any_nil, ownField_bit, Bool.or_false, Bool.and_or_distrib_left]

theorem vsRange_readBack (v : Word) :
    fields [(0, (v.extractLsb' 0 10).toNat), (16, (v.extractLsb' 16 10).toNat)] = v &&& 0x03FF03FF#32 := by
  have hm : ∀ k, k < 32 → (decide (0 ≤ k) && decide (k < 0 + 10) || decide (16 ≤ k) && decide (k < 16 + 10)) =
      (0x03FF03FF#32).getLsbD k := by decide
  apply BitVec.eq_of_getLsbD_eq
  intro k hk
  rw [fields_bit [10, 10] (by exact ⟨by decide, by omega, by decide, by omega, trivial⟩) hk, BitVec.getLsbD_and, ← hm k hk]
  simp only [List.any_cons, List.any_nil, ownField_bit, Bool.or_false, Bool.and_or_distrib_left]

theorem tsSel_readBack (v : Word) :
    fields [(0, (v.extractLsb' 0 10).toNat), (16, b01 (v.getLsbD 16))] = v &&& 0x000103FF#32 := by
  have hm : ∀ k, k < 32 → (decide (0 ≤ k) && decide (k < 0 + 10) || decide (16 ≤ k) && decide (k < 16 + 1)) =
      (0x000103FF#32).getLsbD k := by decide
  apply BitVec.eq_of_getLsbD_eq
  intro k hk
  rw [fields_bit [10, 1] (by exact ⟨by decide, by omega, by decide, b01_lt _, trivial⟩) hk, ownFlag, BitVec.getLsbD_and, ← hm k hk]
  simp only [List.any_cons, List.any_nil, ownField_bit, Bool.or_false, Bool.and_or_distrib_left]

/-- UM_TS_CTRL.log2_n as it is stored. -/
theorem tsCtrl_log2N (v : Word) : bitsOf (v &&& 0x13F#32) 1 5 = (v.extractLsb' 1 5).zeroExtend 32 := by
  have hm : ∀ k, k < 32 → ((0x13F#32).getLsbD (1 + k) && (BitVec.ofNat 32 (2 ^ 5 - 1)).getLsbD k) = decide (k < 5) := by decide
  apply BitVec.eq_of_getLsbD_eq
  intro k hk
  rw [bitsOf, BitVec.getLsbD_and, BitVec.getLsbD_ushiftRight, BitVec.getLsbD_and, Bool.and_assoc, hm k hk, BitVec.zeroExtend_eq_setWidth,
    BitVec.getLsbD_setWidth, BitVec.getLsbD_extractLsb', decide_eq_true hk, Bool.true_and, Bool.and_comm]

/-- UM_TS_CTRL is its two flags and log2_n. -/
theorem tsCtrl_parts (v : Word) : (v &&& 0x101#32) ||| ((v.extractLsb' 1 5).setWidth 32 <<< 1) = v &&& 0x13F#32 := by
  have hm : ∀ k, k < 32 → ((0x101#32).getLsbD k || (decide (1 ≤ k) && decide (k < 1 + 5))) = (0x13F#32).getLsbD k := by decide
  apply BitVec.eq_of_getLsbD_eq
  intro k hk
  have hf : ((v.extractLsb' 1 5).setWidth 32 <<< 1).getLsbD k = (v.getLsbD k && (decide (1 ≤ k) && decide (k < 1 + 5))) := by
    rw [← ownField_bit, BitVec.testBit_toNat, BitVec.getLsbD_shiftLeft, BitVec.getLsbD_setWidth, decide_eq_true hk,
      decide_eq_true (show k - 1 < 32 by omega), Bool.true_and, Bool.true_and, ← decide_not, decide_eq_decide.2 (show ¬k < 1 ↔ 1 ≤ k from Nat.not_lt)]
  rw [BitVec.getLsbD_or, BitVec.getLsbD_and, hf, ← Bool.and_or_distrib_left, hm k hk, BitVec.getLsbD_and]

/-- UM_TS_CTRL: log2_n above 16 reads as 16 (log 28). -/
theorem tsCtrl_readBack (v : Word) :
    ((v &&& 0x13F#32) &&& 0x101#32) ||| (BitVec.ofNat 32 (min 16 (bitsOf (v &&& 0x13F#32) 1 5).toNat) <<< 1) =
      if 16 < (v.extractLsb' 1 5).toNat then (v &&& 0x101#32) ||| 0x20#32 else v &&& 0x13F#32 := by
  have h1 : (v &&& 0x13F#32) &&& 0x101#32 = v &&& 0x101#32 := by rw [BitVec.and_assoc]; rfl
  rw [tsCtrl_log2N, zeroExtend_toNat _ (by decide), h1]
  split
  · next h => rw [Nat.min_eq_left (Nat.le_of_lt h)]; rfl
  · next h => rw [Nat.min_eq_right (Nat.not_lt.1 h), BitVec.ofNat_toNat, tsCtrl_parts]

/-- A register that the running states take. -/
theorem writesBack_running {s : State} {p o : Nat} {m v : Word} {act : State → State} (hs : s.unit ≠ .off) (ho : 0x040 ≤ o ∧ o < 0x1000)
    (ha : o % 4 = 0) (hp : p < 10 ∧ p ≠ 8 ∨ 13 < p ∧ p < 16) (hne : p * 0x1000 + o ≠ 0xF050 ∧ p * 0x1000 + o ≠ 0xE040)
    (hw : writeReg (winOff p o) v s = stateWrite s (BitVec.ofNat 4 p) (BitVec.ofNat 12 o) s.running act)
    (hu : (act s).unit = s.unit) (hr : readBeyond p (act s) o = v &&& m) : WritesBack s (winOff p o) m v :=
  writesBack_judged hs (by omega) ho ha hw (rwTakes_running ho (by omega) hne.1 s) hu (by rw [hr, if_neg fun h => hne.2 h.1])

/-- A register that FAULT takes too. -/
theorem writesBack_open {s : State} {p o : Nat} {m v : Word} {act : State → State} (hs : s.unit ≠ .off) (ho : 0x040 ≤ o ∧ o < 0x1000)
    (ha : o % 4 = 0) (hp : 10 ≤ p ∧ p ≤ 13)
    (hw : writeReg (winOff p o) v s = stateWrite s (BitVec.ofNat 4 p) (BitVec.ofNat 12 o) s.rwOpen act)
    (hu : (act s).unit = s.unit) (hr : readBeyond p (act s) o = v &&& m) : WritesBack s (winOff p o) m v :=
  writesBack_judged hs (by omega) ho ha hw (rwTakes_rwOpen ho hp s) hu (by rw [hr, if_neg (by omega)])

theorem bit1_readBack (v : Word) : bit1 (v.getLsbD 0) = v &&& 1#32 := by
  rw [BitVec.and_one_eq_setWidth_ofBool_getLsbD]
  cases v.getLsbD 0 <;> rfl

/-- Every RW register stores what its mask holds in the states that take it, and is refused in the others. -/
theorem PlainReg.writesBack {off : BitVec 16} {m : Word} (r : PlainReg off m) {s : State} (hs : s.unit ≠ .off) (v : Word) :
    WritesBack s off m v := by
  cases r with
  | ien p =>
    refine writesBack_header hs p (by decide) (by decide) ?_ (by rfl)
    rw [writeHeader_ien, readHeader, State.updHdr_hdr, vAt_vPut_self]
    exact zeroExtend_extract v 16 (by decide)
  | errCnt p =>
    refine writesBack_header hs p (by decide) (by decide) ?_ (by rfl)
    rw [writeHeader_errCnt, readHeader, State.updHdr_hdr, vAt_vPut_self]
    exact and_full v
  | scratch p =>
    refine writesBack_header hs p (by decide) (by decide) ?_ (by rfl)
    rw [writeHeader_scratch, readHeader, State.updHdr_hdr, vAt_vPut_self]
    exact and_full v
  | wdog g => exact writesBack_wdog hs g v
  | evCnt k hk => exact writesBack_evCnt hs hk v
  | ctSel => exact writesBack_running hs (by decide) (by decide) (by decide) (by decide) (writeReg_ctSel v s) (by rfl) (ctSel_readBack v)
  | vsRange => exact writesBack_running hs (by decide) (by decide) (by decide) (by decide) (writeReg_vsRange v s) (by rfl) (vsRange_readBack v)
  | vsPolicy => exact writesBack_running hs (by decide) (by decide) (by decide) (by decide) (writeReg_vsPolicy v s) (by rfl) rfl
  | vsColdrd => exact writesBack_running hs (by decide) (by decide) (by decide) (by decide) (writeReg_vsColdrd v s) (by rfl) (and_full v)
  | vwXbase => exact writesBack_running hs (by decide) (by decide) (by decide) (by decide) (writeReg_vwXbase v s) (by rfl) (zeroExtend_extract v 26 (by decide))
  | exFmask =>
    refine writesBack_always hs (by decide) (by decide) (by decide) (by rfl) (by decide) ?_
    rw [writeReg_exFmask]
    exact readReg_after hs (by rfl) (by decide) (by decide) (zeroExtend_extract v 12 (by decide))
  | exNan =>
    refine writesBack_always hs (by decide) (by decide) (by decide) (by rfl) (by decide) ?_
    rw [writeReg_exNan]
    exact readReg_after hs (by rfl) (by decide) (by decide) (and_full v)
  | exOvf =>
    refine writesBack_always hs (by decide) (by decide) (by decide) (by rfl) (by decide) ?_
    rw [writeReg_exOvf]
    exact readReg_after hs (by rfl) (by decide) (by decide) (and_full v)
  | exSram =>
    refine writesBack_always hs (by decide) (by decide) (by decide) (by rfl) (by decide) ?_
    rw [writeReg_exSram]
    exact readReg_after hs (by rfl) (by decide) (by decide) (and_full v)
  | smCfg => exact writesBack_running hs (by decide) (by decide) (by decide) (by decide) (writeReg_smCfg v s) (by rfl) rfl
  | pwCtrl =>
    have h := (updReq_spec { s with power := { s.power with sprintEn := v.getLsbD 0 } }).1
    refine writesBack_open hs (by decide) (by decide) (by decide) (writeReg_pwCtrl v s) h.unit ?_
    rw [readBeyond, readPage10, h.power]
    exact bit1_readBack v
  | pwTthr => exact writesBack_open hs (by decide) (by decide) (by decide) (writeReg_pwTthr v s) (by rfl) (zeroExtend_extract v 10 (by decide))
  | pwRevCnt => exact writesBack_open hs (by decide) (by decide) (by decide) (writeReg_pwRevCnt v s) (by rfl) (and_full v)
  | pwProto => exact writesBack_open hs (by decide) (by decide) (by decide) (writeReg_pwProto v s) (by rfl) (and_full v)
  | hlCwarn => exact writesBack_open hs (by decide) (by decide) (by decide) (writeReg_hlCwarn v s) (by rfl) (zeroExtend_extract v 8 (by decide))
  | hlLowThr => exact writesBack_open hs (by decide) (by decide) (by decide) (writeReg_hlLowThr v s) (by rfl) (and_full v)
  | biSel => exact writesBack_open hs (by decide) (by decide) (by decide) (writeReg_biSel v s) (by rfl) (zeroExtend_extract v 8 (by decide))
  | twMisCnt => exact writesBack_open hs (by decide) (by decide) (by decide) (writeReg_twMisCnt v s) (by rfl) (and_full v)
  | twUncmp => exact writesBack_open hs (by decide) (by decide) (by decide) (writeReg_twUncmp v s) (by rfl) (and_full v)
  | tsCtrl =>
    refine writesBack_judged hs (by decide) (by decide) (by decide) (writeReg_tsCtrl v s)
      (rwTakes_running (by decide) (by decide) (by decide) s) (by rfl) ((tsCtrl_readBack v).trans ?_)
    simp only [show 14 * 0x1000 + 0x040 = 0xE040 from rfl, true_and]
    rfl
  | tsConvThr => exact writesBack_running hs (by decide) (by decide) (by decide) (by decide) (writeReg_tsConvThr v s) (by rfl) (and_full v)
  | tsFnThr => exact writesBack_running hs (by decide) (by decide) (by decide) (by decide) (writeReg_tsFnThr v s) (by rfl) (and_full v)
  | tsSel => exact writesBack_running hs (by decide) (by decide) (by decide) (by decide) (writeReg_tsSel v s) (by rfl) (tsSel_readBack v)
  | tsSaveBase => exact writesBack_running hs (by decide) (by decide) (by decide) (by decide) (writeReg_tsSaveBase v s) (by rfl) (zeroExtend_extract v 26 (by decide))
  | trCtrl => exact writesBack_running hs (by decide) (by decide) (by decide) (by decide) (writeReg_trCtrl v s) (by rfl) rfl
  | trLost =>
    refine writesBack_always hs (by decide) (by decide) (by decide) (by rfl) (by decide) ?_
    rw [writeReg_trLost]
    exact readReg_after hs (by rfl) (by decide) (by decide) (and_full v)

end Sys2Proof.Machine
end

section
/-! PROOF. The headers and the RW registers in the words of the statement (R4, R241, R242, R246). -/

namespace Sys2Proof.Machine

open Sys2Proof.Laws.PortAligned (winOff_aligned)

theorem readHeader_pageId (s : State) (p : PageId) :
    readHeader s p 0 = fields [(0, p.toNat), (4, Config.instanceNo.toNat), (16, 0x554D)] := rfl

/-- UM_PAGE_ID (R242). -/
theorem readReg_pageId {s : State} (hs : s.unit ≠ .off) (p : PageId) :
    (readReg s (winOff p.toNat 0)).toNat = 0x554D0000 + Config.instanceNo.toNat * 16 + p.toNat := by
  have hp := p.isLt
  have hn := Config.instanceNo.isLt
  rw [readReg_header hs p (by decide), readHeader_pageId, fields_toNat₃ (by omega)]
  omega

theorem registerWrite_header {s : State} (hs : s.unit ≠ .off) (p : PageId) {o : Nat} (ho : o < 0x040) (ha : o % 4 = 0) (v : Word) :
    exec (.registerWrite (winOff p.toNat o) v) s = .next (writeHeader p o v s) := by
  rw [exec_registerWrite hs (winOff_aligned _ _ ha), writeReg_header p ho]

/-- Header offsets behind UM_PAGE_SCRATCH are reserved. -/
theorem writeHeader_reserved (p : PageId) {k : Nat} (hk : k < 6) (v : Word) (s : State) : writeHeader p (0x028 + 4 * k) v s = s := by
  match k, hk with
  | 0, _ | 1, _ | 2, _ | 3, _ | 4, _ | 5, _ => rfl
  | n + 6, h => omega

/-- The words of page 5 before its window are reserved. -/
theorem writeReg_page5_reserved {k : Nat} (hk : k < 496) (v : Word) (s : State) : writeReg (winOff 5 (0x040 + 4 * k)) v s = s := by
  rw [writeReg_beyond (by decide) (by omega), writeBeyond, if_neg]
  rw [inArray_out (by omega)]
  decide

/-- A write of UM_PW_CTRL: the request follows its conditions under the enable written, and a grant ends with it (R214, R215). -/
theorem updReq_sprintEn (s : State) (b : Bool) :
    let t := updReq { s with power := { s.power with sprintEn := b } }
    t.power.sprintEn = b ∧
    (t.power.sprintReq = true ↔ b = true ∧ s.power.accountOk = true ∧ s.power.clamped = false ∧
      (s.unit = .run ∨ s.unit = .drain) ∧ (s.power.recent = true ∨ s.inExec ≠ 0) ∧ s.power.holdoff = false) ∧
    (s.power.granted = true → t.power.sprintReq = false → t.power.granted = false ∧ (vAt t.hdr 10).istat.getLsbD 1 = true) ∧
    (t.power.sprintReq = true → t.power.granted = s.power.granted) ∧ HeadersGrow s t ∧ TraceGrows s t ∧
    { t.power with sprintEn := s.power.sprintEn, sprintReq := s.power.sprintReq, granted := s.power.granted } = s.power ∧
    { t with power := s.power, hdr := s.hdr, trace := s.trace } = s := by
  obtain ⟨h, hoff⟩ := updReq_spec { s with power := { s.power with sprintEn := b } }
  have hw := sprintWanted_iff { s with power := { s.power with sprintEn := b } }
  dsimp only
  simp only [h.power]
  refine ⟨trivial, hw, fun hg hr => ⟨?_, hoff hg hr⟩, fun hr => ?_, h.headers, h.events, trivial, ?_⟩
  · rw [hr, Bool.and_false]
  · rw [hr, Bool.and_true]
  · rw [h.eq]
    rfl

end Sys2Proof.Machine
end

section
/-! PROOF. The status registers (R23, R44, R173, R224, R244; Tables 2-8, 11-6, 13-5, 15-2, 15-3). -/

namespace Sys2Proof.Machine

/-! ### Some element of a vector, some context -/

theorem vec_any_iff {α : Type} {w : Nat} (v : Vector α (2 ^ w)) (f : α → Bool) : v.any f = true ↔ ∃ i : BitVec w, f (vAt v i) = true := by
  rw [Vector.any_eq_true]
  constructor
  · rintro ⟨i, hi, h⟩
    exact ⟨BitVec.ofNat w i, by simpa [vAt, Nat.mod_eq_of_lt hi] using h⟩
  · rintro ⟨i, h⟩
    exact ⟨i.toNat, i.isLt, h⟩

/-- A condition of some itinerary in execution, judged context by context. -/
theorem anyCtx_iff (s : State) (f : Ctx → Bool) : (s.ctx0.any f || s.ctx1.any f) = true ↔ ∃ b c, s.ctx b = some c ∧ f c = true := by
  rw [Bool.or_eq_true, Option.any_eq_true, Option.any_eq_true]
  constructor
  · rintro (⟨c, hc, h⟩ | ⟨c, hc, h⟩)
    · exact ⟨false, c, hc, h⟩
    · exact ⟨true, c, hc, h⟩
  · rintro ⟨_ | _, c, hc, h⟩
    · exact .inl ⟨c, hc, h⟩
    · exact .inr ⟨c, hc, h⟩

theorem inExec_eq (s : State) : s.inExec = (if s.ctx0 = none then 0 else 1) + (if s.ctx1 = none then 0 else 1) := by
  unfold State.inExec
  cases s.ctx0 <;> cases s.ctx1 <;> rfl

/-! ### UM_PAGE_STAT -/

theorem recording_iff (s : State) : recording s = true ↔ s.trace.stopped = false ∧
    (s.trace.ctrl.getLsbD 0 = true ∨ ∃ b c, s.ctx b = some c ∧ c.trCtrl.getLsbD 0 = true) := by
  rw [← anyCtx_iff s fun c => c.trCtrl.getLsbD 0]
  unfold recording
  cases s.ctx0 <;> cases s.ctx1 <;> simp [or_assoc]

/-- Page 6 is busy while a slot is pinned. -/
theorem anyPin_iff (s : State) : (s.entries.any fun e => e.pin.isSome) = true ↔ ∃ k, slotPinned s k = true := by
  simp only [List.any_eq_true, slotPinned]
  constructor
  · rintro ⟨e, he, h⟩
    obtain ⟨k, hk⟩ := Option.isSome_iff_exists.1 h
    exact ⟨k.toNat, e, he, by simp [hk]⟩
  · rintro ⟨k, e, he, h⟩
    refine ⟨e, he, ?_⟩
    cases hp : e.pin
    · rw [hp] at h; cases h
    · rfl

/-- R244, Table 15-3. -/
theorem pageBusy_iff (s : State) (p : PageId) : pageBusy s p = true ↔ PageIsBusy s p.toNat := by
  have hp := p.isLt
  unfold pageBusy PageIsBusy
  generalize p.toNat = n at hp
  match n, hp with
  | 1, _ => exact (vec_any_iff ..).trans (by simp [State.guest])
  | 2, _ => rw [inExec_eq]; cases s.ctx0 <;> cases s.ctx1 <;> simp
  | 6, _ => exact anyPin_iff s
  | 15, _ => simp [recording_iff, or_comm]
  | 0, _ | 3, _ | 4, _ | 5, _ | 7, _ | 8, _ | 9, _ | 10, _ | 11, _ | 12, _ | 13, _ | 14, _ =>
    simp [or_assoc, Option.isSome_iff_ne_none]
  | n + 16, h => omega

theorem readHeader_stat (s : State) (p : PageId) :
    readHeader s p 0x010 = fields [(0, b01 (pageIrq s p)), (1, b01 (vAt s.hdr p).errValid), (2, b01 (pageBusy s p))] := rfl

/-- UM_PAGE_STAT.irq: an enabled cause is set (R245). -/
theorem pageIrq_iff (s : State) (p : PageId) :
    pageIrq s p = true ↔ readHeader s p 0x018 &&& readHeader s p 0x014 ≠ 0 := by
  have h : readHeader s p 0x018 &&& readHeader s p 0x014 = (istatOf s p &&& (vAt s.hdr p).ien).zeroExtend 32 := by
    simp [readHeader, BitVec.setWidth_and]
  rw [h, pageIrq, bne_iff_ne]
  refine not_congr ?_
  constructor
  · intro e; rw [e]; rfl
  · intro e
    apply BitVec.eq_of_toNat_eq
    have := congrArg BitVec.toNat e
    rwa [zeroExtend_toNat _ (by decide)] at this

theorem statFields_fit (s : State) (p : PageId) :
    FieldsFit 0 [(0, b01 (pageIrq s p)), (1, b01 (vAt s.hdr p).errValid), (2, b01 (pageBusy s p))] [1, 1, 1] :=
  ⟨by decide, b01_lt _, by decide, b01_lt _, by decide, b01_lt _, trivial⟩

/-! ### UM_GSTAT, UM_GS_STATE, UM_GS_INDEX -/

theorem unitCode_lt (u : UnitState) : u.code < 2 ^ 4 := by cases u <;> decide

theorem inExec_lt (s : State) : s.inExec < 2 ^ 2 := by
  rw [inExec_eq]
  split <;> split <;> decide

theorem gstatFields_fit (s : State) :
    FieldsFit 0 [(0, s.unit.code), (4, b01 s.retention), (5, s.inExec), (8, s.resetCause.toNat), (16, s.faultCause.toNat)] [4, 1, 2, 2, 8] :=
  ⟨by decide, unitCode_lt _, by decide, b01_lt _, by decide, inExec_lt _, by decide, s.resetCause.isLt, by decide, s.faultCause.isLt, trivial⟩

theorem readPage2_state (s : State) (g : GuestId) : readPage2 s (0x100 + 0x10 * g.toNat) =
    fields [(0, (s.guest g).state.code), (16, ((s.guest g).tail - (s.guest g).head).toNat)] := by
  have hg := g.isLt
  unfold readPage2
  rw [if_pos (inArray_in (by omega)), show (0x100 + 0x10 * g.toNat - 0x100) / 0x10 = g.toNat by omega,
    show (0x100 + 0x10 * g.toNat - 0x100) % 0x10 = 0 by omega, BitVec.ofNat_toNat, BitVec.setWidth_eq]
  rfl

theorem readPage2_index (s : State) (g : GuestId) : readPage2 s (0x100 + 0x10 * g.toNat + 4) =
    fields [(0, (s.guest g).head.toNat), (16, (s.guest g).started.toNat)] := by
  have hg := g.isLt
  unfold readPage2
  rw [if_pos (inArray_in (by omega)),
    show (0x100 + 0x10 * g.toNat + 4 - 0x100) / 0x10 = g.toNat by omega,
    show (0x100 + 0x10 * g.toNat + 4 - 0x100) % 0x10 = 4 by omega, BitVec.ofNat_toNat, BitVec.setWidth_eq]
  rfl

theorem guestCode_lt (x : GuestState) : x.code < 2 ^ 2 := by cases x <;> decide

/-! ### UM_PW_STAT -/

theorem pwStatFields_fit (p : Power) :
    FieldsFit 0 [(0, p.vack.toNat), (8, b01 p.sprintReq), (9, b01 p.granted), (10, b01 p.rvkPace), (11, b01 p.guardPace),
      (12, b01 p.protoPace), (13, b01 p.clamped), (14, b01 p.accountOk), (15, b01 p.hot), (16, b01 p.vsprint), (17, b01 p.holdoff)]
      [6, 1, 1, 1, 1, 1, 1, 1, 1, 1, 1] :=
  ⟨by decide, p.vack.isLt, by decide, b01_lt _, by decide, b01_lt _, by decide, b01_lt _, by decide, b01_lt _, by decide, b01_lt _,
    by decide, b01_lt _, by decide, b01_lt _, by decide, b01_lt _, by decide, b01_lt _, by decide, b01_lt _, trivial⟩

/-- UM_PAGE_STAT of a page. -/
theorem pageStat_shows {s : State} (hs : s.unit ≠ .off) (p : PageId) :
    let w := readReg s (winOff p.toNat 0x010)
    w &&& 0xFFFFFFF8#32 = 0 ∧ w.getLsbD 1 = (vAt s.hdr p).errValid ∧ (w.getLsbD 2 = true ↔ PageIsBusy s p.toNat) ∧
    (w.getLsbD 0 = true ↔ readReg s (winOff p.toNat 0x018) &&& readReg s (winOff p.toNat 0x014) ≠ 0) := by
  have hf := statFields_fit s p
  simp only [readReg_header hs p (show 0x010 < 0x040 by decide), readReg_header hs p (show 0x018 < 0x040 by decide),
    readReg_header hs p (show 0x014 < 0x040 by decide), readHeader_stat, ← pageIrq_iff, ← pageBusy_iff]
  refine ⟨fields_reserved hf [0, 1, 2] rfl (by decide), fields_flag hf (by simp) (by decide), ?_, ?_⟩
  · rw [fields_flag (p := 2) (b := pageBusy s p) hf (by simp) (by decide)]
  · rw [fields_flag (p := 0) (b := pageIrq s p) hf (by simp) (by decide)]

/-- UM_GSTAT. -/
theorem gstat_shows (s : State) :
    let w := gstatWord s
    (w.extractLsb' 0 4).toNat = s.unit.code ∧ w.getLsbD 4 = s.retention ∧ (w.extractLsb' 5 2).toNat = s.inExec ∧
    w.extractLsb' 8 2 = s.resetCause ∧ w.extractLsb' 16 8 = s.faultCause ∧ w &&& 0xFF00FC80#32 = 0 := by
  have hf := gstatFields_fit s
  dsimp only
  unfold gstatWord
  refine ⟨?_, fields_flag hf (by simp) (by decide), ?_, ?_, ?_, fields_reserved hf [0, 4, 5, 8, 16] rfl (by decide)⟩
  · rw [fields_field (x := s.unit.code) hf (by simp) (by decide), BitVec.toNat_ofNat, Nat.mod_eq_of_lt (unitCode_lt _)]
  · rw [fields_field (x := s.inExec) hf (by simp) (by decide), BitVec.toNat_ofNat, Nat.mod_eq_of_lt (inExec_lt s)]
  · rw [fields_field (x := s.resetCause.toNat) hf (by simp) (by decide), BitVec.ofNat_toNat, BitVec.setWidth_eq]
  · rw [fields_field (x := s.faultCause.toNat) hf (by simp) (by decide), BitVec.ofNat_toNat, BitVec.setWidth_eq]

/-- UM_PW_STAT. -/
theorem pwStat_shows (p : Power) :
    let w := pwStatWord p
    w.extractLsb' 0 6 = p.vack ∧ w.getLsbD 8 = p.sprintReq ∧ w.getLsbD 9 = p.granted ∧ w.getLsbD 10 = p.rvkPace ∧
    w.getLsbD 11 = p.guardPace ∧ w.getLsbD 12 = p.protoPace ∧ w.getLsbD 13 = p.clamped ∧ w.getLsbD 14 = p.accountOk ∧
    w.getLsbD 15 = p.hot ∧ w.getLsbD 16 = p.vsprint ∧ w.getLsbD 17 = p.holdoff ∧ w &&& 0xFFFC00C0#32 = 0 := by
  have hf := pwStatFields_fit p
  have flag {k : Nat} {b : Bool} := fields_flag (p := k) (b := b) hf
  dsimp only
  unfold pwStatWord
  refine ⟨?_, flag (by simp) (by decide), flag (by simp) (by decide), flag (by simp) (by decide), flag (by simp) (by decide),
    flag (by simp) (by decide), flag (by simp) (by decide), flag (by simp) (by decide), flag (by simp) (by decide),
    flag (by simp) (by decide), flag (by simp) (by decide), fields_reserved hf [0, 8, 9, 10, 11, 12, 13, 14, 15, 16, 17] rfl (by decide)⟩
  · rw [fields_field (x := p.vack.toNat) hf (by simp) (by decide), BitVec.ofNat_toNat, BitVec.setWidth_eq]

/-- What the status registers show. -/
theorem statusReads : StatusReads := by
  intro s hs unitCode guestCode
  have hcap : ∀ p : PageId, pageCap p = pageCaps.getD p.toNat 0 := by decide
  have hg : readReg s 0x0044 = gstatWord s := readReg_beyond (p := 0) (o := 0x044) hs (by decide) (by decide)
  have hp : readReg s 0xA044 = pwStatWord s.power := readReg_beyond (p := 10) (o := 0x044) hs (by decide) (by decide)
  refine ⟨fun p => ⟨?_, pageStat_shows hs p⟩, ?_, fun g => ⟨?_, ?_⟩, ?_⟩
  · rw [readReg_header hs p (by decide), ← hcap]
    rfl
  · rw [hg]
    obtain ⟨h1, h2, h3, h4⟩ := gstat_shows s
    exact ⟨h1.trans (by dsimp only [unitCode]; cases s.unit <;> rfl), h2, h3.trans (inExec_eq s), h4⟩
  · have hc := guestCode_lt (s.guest g).state
    rw [readReg_beyond hs (by decide) (by omega), readBeyond, readPage2_state, fields_toNat₂ (by omega)]
    exact congrArg (· + _) (by dsimp only [guestCode]; cases (s.guest g).state <;> rfl)
  · rw [readReg_beyond hs (by decide) (by omega), readBeyond, readPage2_index, fields_toNat₂ (by omega)]
  · rw [hp]
    exact pwStat_shows s.power

end Sys2Proof.Machine
end

section
/-! PROOF. Reads of the register arrays: the element that an offset names (R44, R111, R119, R186, R202, R226, R233, R254, R258). -/

namespace Sys2Proof.Machine

/-! ### Guests -/

section

variable (s : State) (g : GuestId)

theorem readPage1_base : readPage1 s (0x100 + 0x20 * g.toNat) = (s.guest g).base.zeroExtend 32 := by
  have hg := g.isLt
  rw [readPage1, if_neg (by rw [beq_iff_eq]; omega), if_pos (inArray_in (by omega)),
    show (0x100 + 0x20 * g.toNat - 0x100) / 0x20 = g.toNat by omega, show (0x100 + 0x20 * g.toNat - 0x100) % 0x20 = 0 by omega,
    BitVec.ofNat_toNat, BitVec.setWidth_eq]
  rfl

theorem readPage1_cfg : readPage1 s (0x104 + 0x20 * g.toNat) =
    fields [(0, (s.guest g).log2Size.toNat), (8, (s.guest g).weight.toNat), (16, b01 (s.guest g).stopOnReject)] := by
  have hg := g.isLt
  rw [readPage1, if_neg (by rw [beq_iff_eq]; omega), if_pos (inArray_in (by omega)),
    show (0x104 + 0x20 * g.toNat - 0x100) / 0x20 = g.toNat by omega, show (0x104 + 0x20 * g.toNat - 0x100) % 0x20 = 4 by omega,
    BitVec.ofNat_toNat, BitVec.setWidth_eq]
  rfl

theorem readPage1_doorbell : readPage1 s (0x10C + 0x20 * g.toNat) = (s.guest g).tail.zeroExtend 32 := by
  have hg := g.isLt
  rw [readPage1, if_neg (by rw [beq_iff_eq]; omega), if_pos (inArray_in (by omega)),
    show (0x10C + 0x20 * g.toNat - 0x100) / 0x20 = g.toNat by omega, show (0x10C + 0x20 * g.toNat - 0x100) % 0x20 = 0xC by omega,
    BitVec.ofNat_toNat, BitVec.setWidth_eq]
  rfl

theorem readPage2_last : readPage2 s (0x108 + 0x10 * g.toNat) = (s.guest g).last := by
  have hg := g.isLt
  unfold readPage2
  rw [if_pos (inArray_in (by omega)), show (0x108 + 0x10 * g.toNat - 0x100) / 0x10 = g.toNat by omega,
    show (0x108 + 0x10 * g.toNat - 0x100) % 0x10 = 8 by omega, BitVec.ofNat_toNat, BitVec.setWidth_eq]
  rfl

theorem readPage2_first : readPage2 s (0x10C + 0x10 * g.toNat) = (s.guest g).first := by
  have hg := g.isLt
  unfold readPage2
  rw [if_pos (inArray_in (by omega)), show (0x10C + 0x10 * g.toNat - 0x100) / 0x10 = g.toNat by omega,
    show (0x10C + 0x10 * g.toNat - 0x100) % 0x10 = 0xC by omega, BitVec.ofNat_toNat, BitVec.setWidth_eq]
  rfl

theorem readPage8_flags : readPage8 s (0x100 + 4 * g.toNat) = (s.guest g).flags.zeroExtend 32 := by
  have hg := g.isLt
  unfold readPage8
  rw [inArray_out (by omega), if_neg (by decide), if_pos (inArray_in (by omega)),
    show (0x100 + 4 * g.toNat - 0x100) / 4 = g.toNat by omega, BitVec.ofNat_toNat, BitVec.setWidth_eq]

theorem readPage9_mbox (w : BitVec 3) : readPage9 s (0x800 + 0x20 * g.toNat + 4 * w.toNat) = vAt (s.guest g).mbox w := by
  have hg := g.isLt
  have hw := w.isLt
  unfold readPage9
  rw [if_pos (inArray_in (by omega)), show (0x800 + 0x20 * g.toNat + 4 * w.toNat - 0x800) / 0x20 = g.toNat by omega,
    show (0x800 + 0x20 * g.toNat + 4 * w.toNat - 0x800) % 0x20 / 4 = w.toNat by omega]
  simp only [BitVec.ofNat_toNat, BitVec.setWidth_eq]

/-- The bit of a guest in a pair of words that hold one bit for each guest. -/
theorem guestBit {lo hi : Word} {b : Bool} {w : Nat → Word} (h0 : w 0 = lo) (h1 : w 1 = hi)
    (hlo : g.toNat < 32 → lo.getLsbD g.toNat = b) (hhi : ∀ k, k < 32 → g.toNat = 32 + k → hi.getLsbD k = b) :
    (w (g.toNat / 32)).getLsbD (g.toNat % 32) = b := by
  have hg := g.isLt
  rcases Nat.lt_or_ge g.toNat 32 with h | h
  · rw [Nat.div_eq_of_lt h, Nat.mod_eq_of_lt h, h0]
    exact hlo h
  · rw [show g.toNat / 32 = 1 by omega, h1]
    exact hhi _ (by omega) (by omega)

theorem attached_eq : attached s g.toNat = decide ((s.guest g).state ≠ .detached) := by
  rw [attached, BitVec.ofNat_toNat, BitVec.setWidth_eq]
  cases (s.guest g).state <;> rfl

end

/-! ### Overlays, slots, windows -/

section

variable (s : State)

theorem readPage3_count (k : BitVec 3) : readPage3 s (0x080 + 4 * k.toNat) = (vAt s.overlays k).count.zeroExtend 32 := by
  have hk := k.isLt
  unfold readPage3
  rw [if_pos (inArray_in (by omega)), show (0x080 + 4 * k.toNat - 0x080) / 4 = k.toNat by omega, BitVec.ofNat_toNat, BitVec.setWidth_eq]

theorem readPage3_entry (i : BitVec 7) :
    readPage3 s (0x200 + 4 * i.toNat) = s.ovWin.elim 0 fun w => vAt w.copy.ents i := by
  have hi := i.isLt
  unfold readPage3
  rw [inArray_out (by omega), if_neg (by decide), if_pos (inArray_in (by omega)),
    show (0x200 + 4 * i.toNat - 0x200) / 4 = i.toNat by omega, BitVec.ofNat_toNat, BitVec.setWidth_eq]
  cases s.ovWin <;> rfl

theorem readPage6_held (k : SlotId) : (readPage6 s (0x080 + 4 * (k.toNat / 32))).getLsbD (k.toNat % 32) = !recEmpty (vAt s.vint.slots k) := by
  have hk := k.isLt
  unfold readPage6
  dsimp only
  rw [if_pos (inArray_in (by omega)), bits32_bit _ (by omega), Vintage.slot,
    show (0x080 + 4 * (k.toNat / 32) - 0x080) * 8 + k.toNat % 32 = k.toNat by omega, BitVec.ofNat_toNat, BitVec.setWidth_eq]

theorem readPage6_pinned (k : SlotId) : (readPage6 s (0x100 + 4 * (k.toNat / 32))).getLsbD (k.toNat % 32) = slotPinned s k.toNat := by
  have hk := k.isLt
  unfold readPage6
  dsimp only
  rw [inArray_out (by omega), if_neg (by decide), if_pos (inArray_in (by omega)), bits32_bit _ (by omega),
    show (0x100 + 4 * (k.toNat / 32) - 0x100) * 8 + k.toNat % 32 = k.toNat by omega]

theorem slotPinned_iff (k : SlotId) : slotPinned s k.toNat = true ↔ ∃ e ∈ s.entries, e.pin = some k := by
  rw [slotPinned, List.any_eq_true]
  refine exists_congr fun e => and_congr_right fun _ => ?_
  cases e.pin with
  | none => simp
  | some p => simp [BitVec.toNat_inj]

theorem readPage7_record {i : Nat} (hi : i < 16) :
    readPage7 s (0x100 + 4 * i) = s.vint.window.elim 0 fun w => vAt w.record (BitVec.ofNat 4 i) := by
  unfold readPage7
  dsimp only
  rw [if_pos (inArray_in (by omega)), show (0x100 + 4 * i - 0x100) / 4 = i by omega]
  cases s.vint.window <;> rfl

theorem readPage7_map {i : Nat} (hi : i < 128) :
    readPage7 s (0x200 + 4 * i) = s.vint.window.elim 0 fun w => w.map.extractLsb' (32 * i) 32 := by
  unfold readPage7
  dsimp only
  rw [inArray_out (by omega), if_neg (by decide), if_pos (inArray_in (by omega)), show (0x200 + 4 * i - 0x200) / 4 = i by omega]
  cases s.vint.window <;> rfl

/-! ### Engines, records, trace -/

theorem readPage11_canary (e : EngineId) : readPage11 s (0x040 + 4 * e.toNat) =
    fields [(0, (vAt s.health.can e).reading.toNat), (8, (vAt s.health.can e).low.toNat), (16, (vAt s.health.can e).expect.toNat)] := by
  have he := e.isLt
  unfold readPage11
  dsimp only
  rw [if_pos (inArray_in (by omega)), show (0x040 + 4 * e.toNat - 0x040) / 4 = e.toNat by omega, BitVec.ofNat_toNat, BitVec.setWidth_eq]

theorem readPage12_edge (e : EngineId) : readPage12 s (0x080 + 4 * e.toNat) = (s.test.edge.extractLsb' (4 * e.toNat) 4).zeroExtend 32 := by
  have he := e.isLt
  unfold readPage12
  dsimp only
  rw [if_pos (inArray_in (by omega)), show 0x080 + 4 * e.toNat - 0x080 = 4 * e.toNat by omega]

theorem readPage14_record {k : Nat} (hk : k < 16) : readPage14 s (0x100 + 4 * k) = readTaste s.tasting k := by
  unfold readPage14
  dsimp only
  rw [if_pos (inArray_in (by omega)), show (0x100 + 4 * k - 0x100) / 4 = k by omega]

theorem readPage15_engine (e : EngineId) : readPage15 s (0x080 + 4 * e.toNat) = engineWord s (vAt s.engines e) := by
  have he := e.isLt
  unfold readPage15
  dsimp only
  rw [if_pos (inArray_in (by omega)), show (0x080 + 4 * e.toNat - 0x080) / 4 = e.toNat by omega, BitVec.ofNat_toNat, BitVec.setWidth_eq]

theorem readPage15_entry (i : BitVec 7) {j : Nat} (hj : j < 4) :
    readPage15 s (0x800 + 4 * j + 16 * i.toNat) = (vAt s.trace.ents i).word j := by
  have hi := i.isLt
  unfold readPage15
  dsimp only
  rw [inArray_out (by omega), if_neg (by decide), if_pos (inArray_in (by omega)),
    show (0x800 + 4 * j + 16 * i.toNat - 0x800) / 16 = i.toNat by omega, show (0x800 + 4 * j + 16 * i.toNat) % 16 / 4 = j by omega,
    BitVec.ofNat_toNat, BitVec.setWidth_eq]

end

end Sys2Proof.Machine
end

section
/-! PROOF. The words of several fields that the read-only registers show (R186, R189, R224, R254, R257, R258). -/

namespace Sys2Proof.Machine

/-! ### UM_OV_STAT (Table 11-8) -/

/-- The overlay number that UM_OV_STAT shows while its window is open. -/
def shownOverlay (s : State) : BitVec 3 := s.ovWin.elim 0 OvWindow.sel

theorem readPage3_stat (s : State) : readPage3 s 0x044 =
    fields [(0, b01 s.ovWin.isSome), (4, (shownOverlay s).toNat), (8, s.ovBad.toNat)] |||
      (bits32 fun k => decide (16 ≤ k) && decide (k < 24) && overlayHeld s (k - 16)) := by
  unfold shownOverlay
  cases h : s.ovWin <;> simp [readPage3, inArray, h]

theorem ovStatFields_fit (s : State) :
    FieldsFit 0 [(0, b01 s.ovWin.isSome), (4, (shownOverlay s).toNat), (8, s.ovBad.toNat)] [1, 3, 6] :=
  ⟨by decide, b01_lt _, by decide, (shownOverlay s).isLt, by decide, s.ovBad.isLt, trivial⟩

theorem overlayHeld_iff (s : State) (k : Nat) : overlayHeld s k = true ↔ ∃ b c, s.ctx b = some c ∧ rOverlay c.it = k + 1 := by
  have h := anyCtx_iff s fun c => rOverlay c.it == k + 1
  simp only [beq_iff_eq] at h
  rw [← h, overlayHeld]
  cases s.ctx0 <;> cases s.ctx1 <;> simp

/-- Below bit 16 UM_OV_STAT is its fields. -/
theorem ovStat_field (s : State) {p x w : Nat}
    (hm : ((p, x), w) ∈ List.zip [(0, b01 s.ovWin.isSome), (4, (shownOverlay s).toNat), (8, s.ovBad.toNat)] [1, 3, 6]) (hw : p + w ≤ 16) :
    (readPage3 s 0x044).extractLsb' p w = BitVec.ofNat w x := by
  rw [← fields_field (ovStatFields_fit s) hm (by omega), readPage3_stat]
  apply BitVec.eq_of_getLsbD_eq
  intro k hk
  rw [BitVec.getLsbD_extractLsb', BitVec.getLsbD_extractLsb', BitVec.getLsbD_or, bits32_bit _ (by omega)]
  simp [show ¬16 ≤ p + k by omega]

theorem ovStat_open (s : State) : (readPage3 s 0x044).getLsbD 0 = s.ovWin.isSome := by
  rw [readPage3_stat, BitVec.getLsbD_or, fields_flag (p := 0) (b := s.ovWin.isSome) (ovStatFields_fit s) (by simp) (by decide), bits32_bit _ (by decide)]
  simp

theorem ovStat_bad (s : State) : (readPage3 s 0x044).extractLsb' 8 6 = s.ovBad := by
  rw [ovStat_field s (x := s.ovBad.toNat) (by simp) (by decide), BitVec.ofNat_toNat, BitVec.setWidth_eq]

theorem ovStat_held (s : State) (k : BitVec 3) :
    (readPage3 s 0x044).getLsbD (16 + k.toNat) = true ↔ ∃ b c, s.ctx b = some c ∧ rOverlay c.it = k.toNat + 1 := by
  have hk := k.isLt
  have hf : (fields [(0, b01 s.ovWin.isSome), (4, (shownOverlay s).toNat), (8, s.ovBad.toNat)]).getLsbD (16 + k.toNat) = false := by
    rw [fields_bit _ (ovStatFields_fit s) (by omega)]
    exact (ovStatFields_fit s).any_gap (by simp; omega)
  rw [readPage3_stat, BitVec.getLsbD_or, hf, bits32_bit _ (by omega), Nat.add_sub_cancel_left, ← overlayHeld_iff]
  simp [show 16 + k.toNat < 24 by omega]

/-! ### UM_CT_STAT and UM_CT_BANK (Table 11-10) -/

theorem stagingBits_lt (c : Cellar) : (stagingBits c).toNat < 2 ^ 3 := by
  unfold stagingBits
  cases c.stBlend <;> cases c.stDq8 <;> cases c.stDq4 <;> decide

theorem stagingBits_bit (c : Cellar) (t : Nat) : (stagingBits c).getLsbD t = staging c t := by
  match t with
  | 0 | 1 | 2 => unfold stagingBits staging; cases c.stBlend <;> cases c.stDq8 <;> cases c.stDq4 <;> rfl
  | t + 3 => exact Nat.testBit_lt_two_pow (Nat.lt_of_lt_of_le (stagingBits_lt c) (Nat.pow_le_pow_right (by decide) (by omega)))

/-- Three flags as one number: its bits and its bound. -/
theorem threeFlags_bits : ∀ a b c : Bool,
    (b01 a + 2 * b01 b + 4 * b01 c).testBit 0 = a ∧ (b01 a + 2 * b01 b + 4 * b01 c).testBit 1 = b ∧
    (b01 a + 2 * b01 b + 4 * b01 c).testBit 2 = c ∧ b01 a + 2 * b01 b + 4 * b01 c < 2 ^ 3 := by decide

theorem emptyBits_blend (c : Cellar) : (emptyBits c).testBit 0 = blendEmptyAll c := (threeFlags_bits _ _ _).1

theorem emptyBits_dq8 (c : Cellar) : (emptyBits c).testBit 1 = if c.actDq8 then c.emDq8B else c.emDq8A := (threeFlags_bits _ _ _).2.1

theorem emptyBits_dq4 (c : Cellar) : (emptyBits c).testBit 2 = if c.actDq4 then c.emDq4B else c.emDq4A := (threeFlags_bits _ _ _).2.2.1

theorem emptyBits_lt (c : Cellar) : emptyBits c < 2 ^ 3 := (threeFlags_bits _ _ _).2.2.2

theorem ctStatFields_fit (c : Cellar) : FieldsFit 0 [(16, emptyBits c)] [3] := ⟨by decide, emptyBits_lt c, trivial⟩

theorem readPage4_stat (s : State) : readPage4 s 0x04C = stagingBits s.cellar ||| fields [(16, emptyBits s.cellar)] := rfl

theorem ctStat_staging (s : State) {t : Nat} (ht : t < 16) : (readPage4 s 0x04C).getLsbD t = staging s.cellar t := by
  rw [readPage4_stat, BitVec.getLsbD_or, stagingBits_bit, fields_bit _ (ctStatFields_fit _) (by omega),
    (ctStatFields_fit _).any_gap (by simp; omega), Bool.or_false]

theorem ctStat_empty (s : State) {j : Nat} (hj : j < 3) : (readPage4 s 0x04C).getLsbD (16 + j) = (emptyBits s.cellar).testBit j := by
  have hs : (stagingBits s.cellar).getLsbD (16 + j) = false :=
    Nat.testBit_lt_two_pow (Nat.lt_of_lt_of_le (stagingBits_lt _) (Nat.pow_le_pow_right (by decide) (by omega)))
  rw [readPage4_stat, BitVec.getLsbD_or, hs, Bool.false_or, fields_bit _ (ctStatFields_fit _) (by omega)]
  simp

theorem ctStat_blend (s : State) : (readPage4 s 0x04C).getLsbD 16 = true ↔ blendEmptyAll s.cellar = true := by
  rw [ctStat_empty s (j := 0) (by decide), emptyBits_blend]

theorem ctStat_lt (s : State) : (readPage4 s 0x04C).toNat < 2 ^ 19 := by
  have he := emptyBits_lt s.cellar
  have hf : (fields [(16, emptyBits s.cellar)]).toNat < 2 ^ 19 := by
    simp only [fields, List.foldl_cons, List.foldl_nil, BitVec.toNat_ofNat]
    omega
  rw [readPage4_stat, BitVec.toNat_or]
  exact Nat.or_lt_two_pow (Nat.lt_of_lt_of_le (stagingBits_lt _) (by decide)) hf

theorem ctBank_active (s : State) {t : Nat} (ht : t < 16) : (readPage4 s 0x050).getLsbD t = activeBank s.cellar t :=
  (bits32_bit _ (by omega)).trans (if_pos ht)

theorem ctBank_busy (s : State) {t : Nat} (ht : t < 16) : (readPage4 s 0x050).getLsbD (16 + t) = true ↔
    ∃ b c, s.ctx b = some c ∧ pinnedBank c t ≠ activeBank s.cellar t := by
  have h : (readPage4 s 0x050).getLsbD (16 + t) = inactiveBusy s t := by
    refine (bits32_bit _ (by omega)).trans ((if_neg (by omega)).trans ?_)
    rw [Nat.add_sub_cancel_left]
  have hc := anyCtx_iff s fun c => pinnedBank c t != activeBank s.cellar t
  simp only [bne_iff_ne] at hc
  rw [h, ← hc, inactiveBusy]
  cases s.ctx0 <;> cases s.ctx1 <;> simp

/-- The BLEND table is empty where every word of its user slots is 0 (R61). -/
theorem blendEmptyAll_iff (c : Cellar) : blendEmptyAll c = true ↔
    ∀ slot w, 32 ≤ slot → slot < 64 → w < 32 → blendWord c c.actBlend slot w = 0 := by
  have hall : blendEmptyAll c = true ↔ ∀ i : Nat, i < 1024 → vAt (if c.actBlend then c.blendB else c.blendA) (BitVec.ofNat 10 i) = 0 := by
    rw [blendEmptyAll, Vector.all_eq_true]
    refine forall_congr' fun i => forall_congr' fun hi => ?_
    have hi' : i % 1024 = i := Nat.mod_eq_of_lt hi
    simp [vAt, hi']
  rw [hall]
  constructor
  · intro h slot w h1 h2 h3
    rw [blendWord, if_neg (by omega)]
    exact h _ (by omega)
  · intro h i hi
    have := h (32 + i / 32) (i % 32) (by omega) (by omega) (by omega)
    rwa [blendWord, if_neg (by omega), show (32 + i / 32 - 32) * 32 + i % 32 = i by omega] at this

/-! ### UM_VW_STAT, UM_TW_STAT, UM_TR_STAT, UM_DBG_CMD and UM_DBG_STAT -/

/-- The slot number that UM_VW_STAT shows while its window is open. -/
def shownSlot (s : State) : Nat := s.vint.window.elim 0 fun w => w.slot.toNat

theorem shownSlot_lt (s : State) : shownSlot s < 2 ^ 10 := by
  unfold shownSlot
  cases s.vint.window with
  | none => decide
  | some w => exact w.slot.isLt

theorem vwStat_toNat (s : State) : (readPage7 s 0x044).toNat =
    b01 s.vint.window.isSome + b01 s.vint.xfer.isSome * 2 + shownSlot s * 2 ^ 16 := by
  have h1 := b01_lt s.vint.window.isSome
  have h2 := b01_lt s.vint.xfer.isSome
  have h3 := shownSlot_lt s
  have hr : readPage7 s 0x044 = fields [(0, b01 s.vint.window.isSome), (1, b01 s.vint.xfer.isSome), (16, shownSlot s)] := by
    unfold shownSlot
    cases h : s.vint.window <;> simp [readPage7, inArray, h]
  rw [hr, fields_toNat₃ (by omega), Nat.pow_one]

theorem twStat_toNat {s : State} (h : TwinInv s) : (readPage13 s 0x044).toNat =
    (Config.instanceNo ^^^ 1#3).toNat + b01 s.twin.active * 2 ^ 4 + s.twin.own.length * 2 ^ 8 + s.twin.part.length * 2 ^ 16 := by
  have ha := b01_lt s.twin.active
  obtain ⟨h1, h2⟩ := h
  have hr : readPage13 s 0x044 = fields [(0, (Config.instanceNo ^^^ 1#3).toNat), (4, b01 s.twin.active), (8, min s.twin.own.length 64),
      (16, min s.twin.part.length 64)] := rfl
  rw [hr, Nat.min_eq_left h1, Nat.min_eq_left h2, fields_toNat₄ (by omega)]

theorem half_low_toNat (v : BitVec 64) : (half v false).toNat = v.toNat % 2 ^ 32 := by
  simp [half]

theorem trStat_toNat {s : State} (h : s.trace.count ≤ 128) : (readPage15 s 0x044).toNat =
    s.trace.next.toNat + s.trace.count * 2 ^ 8 + b01 s.trace.wrapped * 2 ^ 16 + b01 s.trace.stopped * 2 ^ 17 := by
  have h1 := b01_lt s.trace.wrapped
  have h2 := b01_lt s.trace.stopped
  have hr : readPage15 s 0x044 = fields [(0, s.trace.next.toNat), (8, min s.trace.count 128), (16, b01 s.trace.wrapped),
      (17, b01 s.trace.stopped)] := rfl
  rw [hr, Nat.min_eq_left h, fields_toNat₄ (by omega)]

theorem dbgCmd_toNat (s : State) : (readPage15 s 0x054).toNat = if s.trace.dbgBeats = 0 then 1 else s.trace.dbgBeats.toNat := by
  have hr : readPage15 s 0x054 = (stepBeats s.trace.dbgBeats).zeroExtend 32 := rfl
  rw [hr, zeroExtend_toNat _ (by decide), stepBeats, apply_ite BitVec.toNat]
  simp

/-! ### The selected tasting record (Table 6-6, R119) -/

/-- The record that UM_TS_SEL selects, where there is one. -/
theorem selectedTaste_eq {t : Tasting} {r : Taste}
    (h : (t.selKind = true ∧ t.selIndex.toNat < 64 ∧ r = vAt t.guests (t.selIndex.extractLsb' 0 6)) ∨
      (t.selKind = false ∧ r = vAt t.slots t.selIndex)) : selectedTaste t = some r := by
  rcases h with ⟨h1, h2, rfl⟩ | ⟨h1, rfl⟩
  · simp [selectedTaste, h1, h2]
  · simp [selectedTaste, h1]

/-- A word of the selected record, but for the captured high words 5 and 9 (R249). -/
theorem readTaste_word {t : Tasting} {r : Taste} (h : selectedTaste t = some r) {k : Nat} (h5 : k ≠ 5) (h9 : k ≠ 9) :
    readTaste t k = r.words.getD k 0 := by
  simp [readTaste, h, h5, h9]

theorem words_shown (r : Taste) : ∀ x ∈ [(0, r.tiles), (1, r.nCmp), (2, r.nZeroed % 2 ^ 16 + r.nClipped * 2 ^ 16), (3, r.convMax),
    (4, r.convSum), (6, r.fnMax), (7, r.fnNan), (8, r.fnSum)],
    x.1 < 10 ∧ x.1 ≠ 5 ∧ x.1 ≠ 9 ∧ (r.words.getD x.1 0).toNat = x.2 % 2 ^ 32 := by
  simp [Taste.words, Nat.mul_comm]

theorem words_reserved (r : Taste) {k : Nat} (h1 : 10 ≤ k) (h2 : k < 16) : r.words.getD k 0 = 0 := by
  match k, h1, h2 with
  | 10, _, _ | 11, _, _ | 12, _, _ | 13, _, _ | 14, _, _ | 15, _, _ => rfl
  | n + 16, _, h => omega

/-! ### Step beats left (R257, log 81) -/

theorem foldl_max_spec (l : List Nat) (n : Nat) : n ≤ l.foldl max n ∧ (∀ x ∈ l, x ≤ l.foldl max n) ∧
    (l.foldl max n = n ∨ l.foldl max n ∈ l) := by
  induction l generalizing n with
  | nil => simp
  | cons x t ih =>
    obtain ⟨h1, h2, h3⟩ := ih (max n x)
    refine ⟨by simp only [List.foldl_cons]; omega, ?_, ?_⟩
    · intro y hy
      rcases List.mem_cons.1 hy with rfl | hy
      · simp only [List.foldl_cons]; omega
      · exact h2 y hy
    · rcases h3 with h3 | h3
      · rw [List.foldl_cons, h3]
        rcases Nat.le_total n x with h | h
        · rw [Nat.max_eq_right h]; exact .inr (List.mem_cons_self ..)
        · exact .inl (Nat.max_eq_left h)
      · exact .inr (List.mem_cons_of_mem _ h3)

/-- The count of UM_DBG_STAT.left is the largest of the engines' counts. -/
theorem stepLeftMax_spec (s : State) : (∀ e : EngineId, (vAt s.engines e).stepLeft.toNat ≤ stepLeftMax s) ∧
    ∃ e : EngineId, (vAt s.engines e).stepLeft.toNat = stepLeftMax s := by
  have hl : stepLeftMax s = (s.engines.toList.map fun x => x.stepLeft.toNat).foldl max 0 := by
    rw [stepLeftMax, ← Vector.foldl_toList, List.foldl_map]
  have hm (e : EngineId) : (vAt s.engines e).stepLeft.toNat ∈ s.engines.toList.map fun x => x.stepLeft.toNat :=
    List.mem_map.2 ⟨_, by simp [vAt], rfl⟩
  obtain ⟨-, h2, h3⟩ := foldl_max_spec (s.engines.toList.map fun x => x.stepLeft.toNat) 0
  rw [← hl] at h2 h3
  refine ⟨fun e => h2 _ (hm e), ?_⟩
  rcases h3 with h3 | h3
  · exact ⟨0, Nat.le_antisymm (h2 _ (hm 0)) (h3 ▸ Nat.zero_le _)⟩
  · obtain ⟨x, hx, e⟩ := List.mem_map.1 h3
    obtain ⟨i, hi, rfl⟩ := List.getElem_of_mem hx
    exact ⟨BitVec.ofNat 4 i, by
      have : i < 16 := by simpa using hi
      rw [← e]
      simp [vAt, Nat.mod_eq_of_lt this]⟩

theorem dbgStat_toNat (s : State) : (readPage15 s 0x058).toNat = b01 s.trace.stepping + stepLeftMax s * 2 ^ 16 := by
  have h1 := b01_lt s.trace.stepping
  obtain ⟨e, he⟩ := (stepLeftMax_spec s).2
  have h2 := (vAt s.engines e).stepLeft.isLt
  have hr : readPage15 s 0x058 = fields [(0, b01 s.trace.stepping), (16, stepLeftMax s)] := rfl
  rw [hr, fields_toNat₂ (by omega)]

/-! ### UM_DBG_ENG (Table 15-9, R258) -/

theorem budgetSpent_iff (p : Power) (n : Nat) :
    budgetSpent p n = true ↔ p.eff.toNat ≤ n ∧ (p.eff = 0xFFFF → p.protoPace = true) := by
  rw [budgetSpent, Bool.and_eq_true, decide_eq_true_eq, Bool.or_eq_true, bne_iff_ne, Decidable.imp_iff_not_or]

/-- What stops an engine's work as UM_DBG_ENG shows it. -/
def EngineStopped (s : State) : Prop := s.unit = .fault ∨ (s.unit = .hold ∧ s.trace.stepping = false)

theorem engineStopped_iff (s : State) :
    EngineStopped s ↔ (s.unit == .fault || (s.unit == .hold && !s.trace.stepping)) = true := by
  simp [EngineStopped]

theorem phaseCode_stopped {s : State} {x : Engine} (hx : x.shown ≠ .none) (h : EngineStopped s) : phaseCode s x = 7 := by
  rw [engineStopped_iff] at h
  unfold phaseCode
  cases hp : x.shown
  case none => exact absurd hp hx
  all_goals exact if_pos h

/-- The code of the work that an engine shows while nothing stops it (Table 15-9). -/
def Phase.dbgCode : Phase → Nat
  | .none => 0 | .pass1 => 1 | .turnaround => 2 | .pass2 => 3 | .racking => 4 | .first => 5 | .column => 6

theorem phaseCode_going {s : State} {x : Engine} (h : ¬EngineStopped s) : phaseCode s x = x.shown.dbgCode := by
  rw [engineStopped_iff] at h
  unfold phaseCode
  cases x.shown
  case none => rfl
  all_goals exact if_neg h

theorem phaseCode_lt (s : State) (x : Engine) : phaseCode s x < 2 ^ 3 := by
  by_cases h : EngineStopped s
  · by_cases hx : x.shown = .none
    · simp [phaseCode, hx]
    · rw [phaseCode_stopped hx h]
      decide
  · rw [phaseCode_going h]
    cases x.shown <;> decide

theorem engineWord_idle {s : State} {x : Engine} (h : x.shown = .none) :
    engineWord s x = fields [(5, b01 (budgetSpent s.power x.issued))] := by
  simp [engineWord, h]

theorem engineWord_works {s : State} {x : Engine} (h : x.shown ≠ .none) : engineWord s x =
    fields [(0, phaseCode s x), (3, b01 x.ctx), (4, b01 x.waiting), (5, b01 (budgetSpent s.power x.issued)), (8, engineRow s x % 2 ^ 24)] := by
  simp [engineWord, h]

theorem idleFields_fit (b : Bool) : FieldsFit 0 [(5, b01 b)] [1] := ⟨by decide, b01_lt b, trivial⟩

theorem engineFields_fit (s : State) (x : Engine) :
    FieldsFit 0 [(0, phaseCode s x), (3, b01 x.ctx), (4, b01 x.waiting), (5, b01 (budgetSpent s.power x.issued)), (8, engineRow s x % 2 ^ 24)]
      [3, 1, 1, 1, 24] :=
  ⟨by decide, phaseCode_lt s x, by decide, b01_lt _, by decide, b01_lt _, by decide, b01_lt _, by decide, Nat.mod_lt _ (by decide), trivial⟩

/-- UM_DBG_ENG.paced. -/
theorem engineWord_paced (s : State) (x : Engine) : (engineWord s x).getLsbD 5 = true ↔
    s.power.eff.toNat ≤ x.issued ∧ (s.power.eff = 0xFFFF → s.power.protoPace = true) := by
  rw [← budgetSpent_iff]
  by_cases h : x.shown = .none
  · rw [engineWord_idle h, fields_flag (b := budgetSpent s.power x.issued) (idleFields_fit _) (by simp) (by decide)]
  · rw [engineWord_works h, fields_flag (b := budgetSpent s.power x.issued) (engineFields_fit s x) (by simp) (by decide)]

/-- The row, or the column group, that an engine serves. -/
theorem engineRow_of_ctx {s : State} {x : Engine} {c : Ctx} (hc : s.ctx x.ctx = some c) :
    engineRow s x = if isCol c.it then x.row / 16 % ((rD0 c.it + 1023) / 1024) else x.row := by
  rw [engineRow, hc]
  rfl

/-- What an engine with work shows. -/
theorem engineWord_shows {s : State} {x : Engine} (h : x.shown ≠ .none) :
    let w := engineWord s x
    w.getLsbD 3 = x.ctx ∧ w.getLsbD 4 = x.waiting ∧ w &&& 0xC0#32 = 0 ∧ (w.extractLsb' 0 3).toNat = phaseCode s x ∧
    w.extractLsb' 8 24 = BitVec.ofNat 24 (engineRow s x) := by
  have hf := engineFields_fit s x
  dsimp only
  rw [engineWord_works h]
  refine ⟨fields_flag hf (by simp) (by decide), fields_flag hf (by simp) (by decide),
    fields_reserved hf [0, 3, 4, 5, 8] rfl (by decide), ?_, ?_⟩
  · rw [fields_field (x := phaseCode s x) hf (by simp) (by decide), BitVec.toNat_ofNat, Nat.mod_eq_of_lt (phaseCode_lt s x)]
  · rw [fields_field (x := engineRow s x % 2 ^ 24) hf (by simp) (by decide)]
    apply BitVec.eq_of_toNat_eq
    simp

end Sys2Proof.Machine
end

section
/-! PROOF. What the status fields and read-only registers show, page by page (InfoReads). -/

namespace Sys2Proof.Machine

theorem bitsOf_low (v : Word) (n : Nat) : bitsOf v 0 n = (v.extractLsb' 0 n).zeroExtend 32 := by
  rw [zeroExtend_extract v n rfl, bitsOf, BitVec.ushiftRight_zero]

/-! ### Reads as numbers and as bits -/

section

variable {s : State} {p o : Nat}

theorem readReg_nat (hs : s.unit ≠ .off) (hp : p < 16) (ho : 0x040 ≤ o ∧ o < 0x1000) {n : Nat} (h : (readBeyond p s o).toNat = n) :
    (readReg s (winOff p o)).toNat = n := by
  rw [readReg_beyond hs hp ho, h]

theorem readReg_bit (hs : s.unit ≠ .off) (hp : p < 16) (ho : 0x040 ≤ o ∧ o < 0x1000) {k : Nat} {b : Bool}
    (h : (readBeyond p s o).getLsbD k = b) : (readReg s (winOff p o)).getLsbD k = b := by
  rw [readReg_beyond hs hp ho, h]

theorem readReg_word (hs : s.unit ≠ .off) (hp : p < 16) (ho : 0x040 ≤ o ∧ o < 0x1000) {w : Word} (h : readBeyond p s o = w) :
    readReg s (winOff p o) = w := readReg_after hs rfl hp ho h

end

section

variable {s : State} (hs : s.unit ≠ .off)
include hs

/-! ### Guests, pages 1, 2, 8 and 9 -/

theorem readReg_attached (g : GuestId) : (readReg s (winOff 2 (0x048 + 4 * (g.toNat / 32)))).getLsbD (g.toNat % 32) =
    decide ((s.guest g).state ≠ .detached) := by
  have hg := g.isLt
  rw [← attached_eq]
  exact guestBit g (w := fun i => readReg s (winOff 2 (0x048 + 4 * i))) rfl rfl
    (fun h => readReg_bit hs (by decide) (by decide) (bits32_bit _ h))
    (fun k hk e => readReg_bit hs (by decide) (by decide) ((bits32_bit _ hk).trans (by rw [e])))

theorem readReg_done (g : GuestId) : (readReg s (winOff 2 (0x040 + 4 * (g.toNat / 32)))).getLsbD (g.toNat % 32) =
    s.done.getLsbD g.toNat :=
  guestBit g (w := fun i => readReg s (winOff 2 (0x040 + 4 * i))) rfl rfl
    (fun h => readReg_bit hs (by decide) (by decide) (half_low_bit _ h))
    (fun k hk e => readReg_bit hs (by decide) (by decide) ((half_high_bit _ hk).trans (by rw [e])))

theorem readReg_ready (g : GuestId) : (readReg s (winOff 9 (0x044 + 4 * (g.toNat / 32)))).getLsbD (g.toNat % 32) =
    s.ready.getLsbD g.toNat :=
  guestBit g (w := fun i => readReg s (winOff 9 (0x044 + 4 * i))) rfl rfl
    (fun h => readReg_bit hs (by decide) (by decide) (half_low_bit _ h))
    (fun k hk e => readReg_bit hs (by decide) (by decide) ((half_high_bit _ hk).trans (by rw [e])))

/-- What the registers of a guest show. -/
theorem guest_shows (g : GuestId) :
    (readReg s (winOff 1 (0x100 + 0x20 * g.toNat))).toNat = (s.guest g).base.toNat ∧
    (readReg s (winOff 1 (0x104 + 0x20 * g.toNat))).toNat =
      (s.guest g).log2Size.toNat + (s.guest g).weight.toNat * 2 ^ 8 + b01 (s.guest g).stopOnReject * 2 ^ 16 ∧
    (readReg s (winOff 1 (0x10C + 0x20 * g.toNat))).toNat = (s.guest g).tail.toNat ∧
    readReg s (winOff 2 (0x108 + 0x10 * g.toNat)) = (s.guest g).last ∧ readReg s (winOff 2 (0x10C + 0x10 * g.toNat)) = (s.guest g).first ∧
    (readReg s (winOff 8 (0x100 + 4 * g.toNat))).toNat = (s.guest g).flags.toNat ∧
    ∀ w : BitVec 3, readReg s (winOff 9 (0x800 + 0x20 * g.toNat + 4 * w.toNat)) = vAt (s.guest g).mbox w := by
  have hg := g.isLt
  have hb := b01_lt (s.guest g).stopOnReject
  refine ⟨readReg_nat hs (by decide) (by omega) ?_, readReg_nat hs (by decide) (by omega) ?_, readReg_nat hs (by decide) (by omega) ?_,
    readReg_word hs (by decide) (by omega) (readPage2_last s g), readReg_word hs (by decide) (by omega) (readPage2_first s g),
    readReg_nat hs (by decide) (by omega) ?_, fun w => readReg_word hs (by decide) (by omega) (readPage9_mbox s g w)⟩
  · rw [readBeyond, readPage1_base, zeroExtend_toNat _ (by decide)]
  · rw [readBeyond, readPage1_cfg, fields_toNat₃ (by omega)]
  · rw [readBeyond, readPage1_doorbell, zeroExtend_toNat _ (by decide)]
  · rw [readBeyond, readPage8_flags, zeroExtend_toNat _ (by decide)]

/-! ### Windows and slots, pages 3, 6 and 7 -/

/-- What page 3 shows of an open window. -/
theorem ovWindow_shows {w : OvWindow} (hw : s.ovWin = some w) :
    (readReg s 0x3044).extractLsb' 4 3 = w.sel ∧ (readReg s (winOff 3 0x048)).toNat = w.copy.count.toNat ∧
    ∀ i : BitVec 7, readReg s (winOff 3 (0x200 + 4 * i.toNat)) = vAt w.copy.ents i := by
  have hr : readReg s 0x3044 = readPage3 s 0x044 := readReg_beyond (p := 3) (o := 0x044) hs (by decide) (by decide)
  refine ⟨?_, readReg_nat hs (by decide) (by decide) ?_, fun i => readReg_word hs (by decide) (by omega) ?_⟩
  · rw [hr, ovStat_field s (x := (shownOverlay s).toNat) (by simp) (by decide), BitVec.ofNat_toNat, BitVec.setWidth_eq, shownOverlay, hw]
    rfl
  · have h : readBeyond 3 s 0x048 = w.copy.count.zeroExtend 32 := by simp [readBeyond, readPage3, inArray, hw]
    rw [h, zeroExtend_toNat _ (by decide)]
  · rw [readBeyond, readPage3_entry, hw]
    rfl

/-- What page 3 shows of a closed window. -/
theorem ovWindow_closed (hw : s.ovWin = none) :
    (readReg s (winOff 3 0x048)).toNat = 0 ∧ ∀ i : BitVec 7, (readReg s (winOff 3 (0x200 + 4 * i.toNat))).toNat = 0 := by
  refine ⟨readReg_nat hs (by decide) (by decide) ?_, fun i => readReg_nat hs (by decide) (by omega) ?_⟩
  · simp [readBeyond, readPage3, inArray, hw]
  · rw [readBeyond, readPage3_entry, hw]
    rfl

/-- The held and the pinned bit of a slot. -/
theorem slot_shows (k : SlotId) :
    (readReg s (winOff 6 (0x080 + 4 * (k.toNat / 32)))).getLsbD (k.toNat % 32) =
      decide ((vAt (vAt s.vint.slots k) 0).extractLsb' 0 5 ≠ 0) ∧
    ((readReg s (winOff 6 (0x100 + 4 * (k.toNat / 32)))).getLsbD (k.toNat % 32) = true ↔ ∃ e ∈ s.entries, e.pin = some k) := by
  have hk := k.isLt
  refine ⟨readReg_bit hs (by decide) (by omega) ((readPage6_held s k).trans ?_), ?_⟩
  · rw [recEmpty, recCount, bitsOf_low, zeroExtend_toNat _ (by decide)]
    generalize (vAt (vAt s.vint.slots k) 0).extractLsb' 0 5 = x
    rw [Bool.eq_iff_iff, Bool.not_eq_true', beq_eq_false_iff_ne, decide_eq_true_eq]
    exact not_congr (BitVec.toNat_inj (y := 0#5))
  · rw [readReg_beyond hs (by decide) (by omega), readBeyond, readPage6_pinned, slotPinned_iff]

/-- What page 7 shows of an open window. -/
theorem vwWindow_shows {w : VwWindow} (hw : s.vint.window = some w) :
    (∀ i : BitVec 4, readReg s (winOff 7 (0x100 + 4 * i.toNat)) = vAt w.record i) ∧
    ∀ i, i < 128 → readReg s (winOff 7 (0x200 + 4 * i)) = w.map.extractLsb' (32 * i) 32 := by
  refine ⟨fun i => readReg_word hs (by decide) (by omega) ?_, fun i hi => readReg_word hs (by decide) (by omega) ?_⟩
  · rw [readBeyond, readPage7_record s i.isLt, hw, BitVec.ofNat_toNat, BitVec.setWidth_eq]
    rfl
  · rw [readBeyond, readPage7_map s hi, hw]
    rfl

/-- What page 7 shows of a closed window. -/
theorem vwWindow_closed (hw : s.vint.window = none) :
    (∀ i, i < 16 → (readReg s (winOff 7 (0x100 + 4 * i))).toNat = 0) ∧
    ∀ i, i < 128 → (readReg s (winOff 7 (0x200 + 4 * i))).toNat = 0 := by
  refine ⟨fun i hi => readReg_nat hs (by decide) (by omega) ?_, fun i hi => readReg_nat hs (by decide) (by omega) ?_⟩
  · rw [readBeyond, readPage7_record s hi, hw]
    rfl
  · rw [readBeyond, readPage7_map s hi, hw]
    rfl

/-! ### Engines, tasting records and trace entries, pages 11, 12, 14 and 15 -/

theorem canary_shows (e : EngineId) : (readReg s (winOff 11 (0x040 + 4 * e.toNat))).toNat =
    (vAt s.health.can e).reading.toNat + (vAt s.health.can e).low.toNat * 2 ^ 8 + (vAt s.health.can e).expect.toNat * 2 ^ 16 := by
  have he := e.isLt
  refine readReg_nat hs (by decide) (by omega) ?_
  rw [readBeyond, readPage11_canary, fields_toNat₃ (by omega)]

theorem edge_shows (e : EngineId) : (readReg s (winOff 12 (0x080 + 4 * e.toNat))).toNat = s.test.edge.toNat / 16 ^ e.toNat % 16 := by
  have he := e.isLt
  refine readReg_nat hs (by decide) (by omega) ?_
  rw [readBeyond, readPage12_edge, zeroExtend_toNat _ (by decide), BitVec.extractLsb'_toNat, Nat.shiftRight_eq_div_pow, Nat.pow_mul]

/-- What page 14 shows of the selected record. -/
theorem taste_shows {r : Taste} (h : selectedTaste s.tasting = some r) :
    (∀ x ∈ [(0, r.tiles), (1, r.nCmp), (2, r.nZeroed % 2 ^ 16 + r.nClipped * 2 ^ 16), (3, r.convMax), (4, r.convSum), (6, r.fnMax),
      (7, r.fnNan), (8, r.fnSum)], (readReg s (winOff 14 (0x100 + 4 * x.1))).toNat = x.2 % 2 ^ 32) ∧
    ∀ k, 10 ≤ k → k < 16 → (readReg s (winOff 14 (0x100 + 4 * k))).toNat = 0 := by
  refine ⟨fun x hx => ?_, fun k h1 h2 => readReg_nat hs (by decide) (by omega) ?_⟩
  · obtain ⟨h1, h5, h9, hw⟩ := words_shown r x hx
    refine readReg_nat hs (by decide) (by omega) ?_
    rw [readBeyond, readPage14_record s (by omega), readTaste_word h h5 h9, hw]
  · rw [readBeyond, readPage14_record s h2, readTaste_word h (by omega) (by omega), words_reserved r h1 h2]
    rfl

theorem trEntry_shows (i : BitVec 7) {j : Nat} (hj : j < 4) :
    readReg s (winOff 15 (0x800 + 4 * j + 16 * i.toNat)) = (vAt s.trace.ents i).word j :=
  readReg_word hs (by decide) (by omega) (readPage15_entry s i hj)

theorem readReg_engine (e : EngineId) : readReg s (winOff 15 (0x080 + 4 * e.toNat)) = engineWord s (vAt s.engines e) :=
  readReg_word hs (by decide) (by omega) (readPage15_engine s e)

end

end Sys2Proof.Machine
end

section
namespace Sys2Proof.Machine

/-- What the status fields and the read-only registers show. -/
theorem infoReads : InfoReads := by
  intro s hs rd bit n
  have ov : readReg s (winOff 3 0x044) = readPage3 s 0x044 := readReg_word hs (by decide) (by decide) rfl
  have ct : readReg s (winOff 4 0x04C) = readPage4 s 0x04C := readReg_word hs (by decide) (by decide) rfl
  have cb : readReg s (winOff 4 0x050) = readPage4 s 0x050 := readReg_word hs (by decide) (by decide) rfl
  have eng (e : EngineId) : readReg s (winOff 15 (0x080 + 4 * e.toNat)) = engineWord s (vAt s.engines e) := readReg_engine hs e
  refine ⟨?_, fun g => ?_, ?_, ?_, ?_,
    -- page 3
    ?_, fun k => ?_, fun k => ?_, ?_, ?_, fun w hw => ovWindow_shows hs hw, fun hw => ovWindow_closed hs hw,
    -- page 4
    ?_, fun t ht => ⟨?_, ?_, ?_⟩, ?_, ?_, ?_, ?_,
    -- pages 6 and 7
    fun k => slot_shows hs k, ?_, ?_, ?_, fun w hw => vwWindow_shows hs hw, fun hw => vwWindow_closed hs hw,
    -- pages 8, 10 and 11
    ?_, ?_, ?_, ?_, ?_, ?_, ?_, ?_, ?_, ?_, fun e => canary_shows hs e, ?_, ?_, ?_, ?_, ?_,
    -- page 12
    ?_, ?_, ?_, ?_, ?_, fun e => edge_shows hs e,
    -- pages 13 and 14
    ?_, fun ht => ?_, ?_, ?_, ?_, ?_, fun r hr => taste_shows hs (selectedTaste_eq hr),
    -- page 15
    fun hc => ?_, ?_, ?_, ⟨stepLeftMax s, ?_, (stepLeftMax_spec s).1, (stepLeftMax_spec s).2⟩,
    fun i => ⟨trEntry_shows hs i (j := 0) (by decide), trEntry_shows hs i (j := 1) (by decide), trEntry_shows hs i (j := 2) (by decide),
      trEntry_shows hs i (j := 3) (by decide)⟩,
    fun e => ⟨?_, fun hx => ?_, fun hx => ?_⟩⟩
  · exact readReg_nat hs (by decide) (by decide) (fields_toNat₂ (by omega))
  · obtain ⟨h1, h2, h3, h4, h5, h6, h7⟩ := guest_shows hs g
    exact ⟨h1, h2, h3, h4, h5, h6, h7, readReg_attached hs g, readReg_done hs g, readReg_ready hs g⟩
  · exact readReg_word (p := 2) (o := 0x050) hs (by decide) (by decide) rfl
  · exact readReg_word (p := 2) (o := 0x054) hs (by decide) (by decide) rfl
  · exact readReg_nat hs (by decide) (by decide) (fields_toNat₂ (by omega))
  -- page 3
  · exact readReg_nat hs (by decide) (by decide) (zeroExtend_toNat s.ovSel (by decide))
  · have hk := k.isLt
    exact readReg_nat hs (by decide) (by omega) ((congrArg BitVec.toNat (readPage3_count s k)).trans (zeroExtend_toNat _ (by decide)))
  · exact (congrArg (BitVec.getLsbD · (16 + k.toNat) = true) ov).to_iff.trans (ovStat_held s k)
  · exact (congrArg (BitVec.extractLsb' 8 6) ov).trans (ovStat_bad s)
  · exact (congrArg (BitVec.getLsbD · 0) ov).trans (ovStat_open s)
  -- page 4
  · exact readReg_word (p := 4) (o := 0x040) hs (by decide) (by decide) rfl
  · exact (congrArg (BitVec.getLsbD · t) ct).trans (ctStat_staging s ht)
  · exact (congrArg (BitVec.getLsbD · t) cb).trans (ctBank_active s ht)
  · exact (congrArg (BitVec.getLsbD · (16 + t) = true) cb).to_iff.trans (ctBank_busy s ht)
  · exact (congrArg (BitVec.getLsbD · 16 = true) ct).to_iff.trans ((ctStat_blend s).trans (blendEmptyAll_iff s.cellar))
  · exact (congrArg (BitVec.getLsbD · 17) ct).trans ((ctStat_empty s (j := 1) (by decide)).trans (emptyBits_dq8 s.cellar))
  · exact (congrArg (BitVec.getLsbD · 18) ct).trans ((ctStat_empty s (j := 2) (by decide)).trans (emptyBits_dq4 s.cellar))
  · exact Nat.lt_of_le_of_lt (Nat.le_of_eq (congrArg BitVec.toNat ct)) (ctStat_lt s)
  -- page 7
  · exact readReg_nat hs (by decide) (by decide) (zeroExtend_toNat s.vint.ctrlSlot (by decide))
  · exact readReg_nat hs (by decide) (by decide) ((vwStat_toNat s).trans (by unfold shownSlot; cases s.vint.window <;> rfl))
  · exact readReg_nat hs (by decide) (by decide) (fields_toNat₃ (by omega))
  -- pages 8, 10 and 11
  · exact readReg_nat hs (by decide) (by decide) (zeroExtend_toNat s.exc.flags (by decide))
  · exact readReg_nat hs (by decide) (by decide) (fields_toNat₃ (by have := b01_lt s.exc.sramValid; omega))
  · exact readReg_nat hs (by decide) (by decide) (zeroExtend_toNat s.power.osc (by decide))
  · exact readReg_nat hs (by decide) (by decide) (zeroExtend_toNat s.power.nombeats (by decide))
  · exact readReg_nat hs (by decide) (by decide) (fields_toNat₂ (by omega))
  · exact readReg_nat hs (by decide) (by decide) (zeroExtend_toNat s.power.cap (by decide))
  · exact readReg_nat hs (by decide) (by decide) (zeroExtend_toNat s.power.iest (by decide))
  · exact readReg_nat hs (by decide) (by decide) (zeroExtend_toNat s.power.tj (by decide))
  · exact readReg_word (p := 10) (o := 0x064) hs (by decide) (by decide) rfl
  · exact readReg_word (p := 10) (o := 0x068) hs (by decide) (by decide) rfl
  · exact readReg_nat hs (by decide) (by decide) (fields_toNat₂ (by omega))
  · exact readReg_word (p := 11) (o := 0x088) hs (by decide) (by decide) rfl
  · exact readReg_word (p := 11) (o := 0x08C) hs (by decide) (by decide) rfl
  · exact readReg_nat hs (by decide) (by decide) (zeroExtend_toNat s.health.ravg (by decide))
  · exact readReg_nat hs (by decide) (by decide) (bit1_toNat s.health.ledgerOk)
  -- page 12
  · exact readReg_nat hs (by decide) (by decide) (fields_toNat₂ (by omega))
  · exact readReg_nat hs (by decide) (by decide) (fields_toNat₂ (by have := b01_lt s.test.vreqEn; omega))
  · exact readReg_nat hs (by decide) (by decide) (fields_toNat₂ (by omega))
  · exact readReg_word (p := 12) (o := 0x050) hs (by decide) (by decide) rfl
  · exact readReg_word (p := 12) (o := 0x054) hs (by decide) (by decide) rfl
  -- pages 13 and 14
  · exact readReg_nat hs (by decide) (by decide) (fields_toNat₃ (by have := b01_lt s.twin.enable; have := b01_lt s.twin.onMismatch; omega))
  · exact readReg_nat hs (by decide) (by decide) (twStat_toNat ht)
  · exact readReg_nat hs (by decide) (by decide) (fields_toNat₂ (by omega))
  · exact readReg_nat hs (by decide) (by decide) (fields_toNat₂ (by have := b01_lt s.twin.missValid; omega))
  · exact readReg_nat hs (by decide) (by decide) (half_low_toNat s.twin.hash)
  · exact readReg_nat hs (by decide) (by decide) (bit1_toNat s.tasting.save.isSome)
  -- page 15
  · exact readReg_nat hs (by decide) (by decide) (trStat_toNat hc)
  · exact readReg_word (p := 15) (o := 0x04C) hs (by decide) (by decide) rfl
  · exact readReg_nat hs (by decide) (by decide) (dbgCmd_toNat s)
  · exact readReg_nat hs (by decide) (by decide) (dbgStat_toNat s)
  · exact (congrArg (BitVec.getLsbD · 5 = true) (eng e)).to_iff.trans (engineWord_paced s _)
  · exact (congrArg (· &&& 0xFFFFFFDF#32) ((eng e).trans (engineWord_idle hx))).trans (fields_reserved (idleFields_fit _) [5] rfl (by decide))
  · obtain ⟨h1, h2, h3, h4, h5⟩ := engineWord_shows (s := s) hx
    rw [← eng e] at h1 h2 h3 h4 h5
    refine ⟨h1, h2, h3, fun hh => BitVec.eq_of_toNat_eq (h4.trans (phaseCode_stopped hx hh)), fun hh => ?_, fun c hc => ?_⟩
    · refine h4.trans ((phaseCode_going hh).trans ?_)
      cases (vAt s.engines e).shown <;> rfl
    · exact h5.trans (congrArg (BitVec.ofNat 24) (engineRow_of_ctx hc))

end Sys2Proof.Machine
end

section
/-! PROOF. The settlement of O15 from its parts. -/

namespace Sys2Proof.Machine

open Sys2Proof.Laws.PortAligned (winOff_aligned)

/-- UM_PAGE_SCRATCH takes every word, reads it back, and changes nothing else (R246). -/
theorem scratch_holds {s : State} (hs : s.unit ≠ .off) (p : PageId) (v : Word) :
    ∃ t, exec (.registerWrite (winOff p.toNat 0x024) v) s = .next t ∧ readReg t (winOff p.toNat 0x024) = v ∧
      (∀ q, q ≠ p → vAt t.hdr q = vAt s.hdr q) ∧
      { vAt t.hdr p with scratch := (vAt s.hdr p).scratch } = vAt s.hdr p ∧ { t with hdr := s.hdr } = s := by
  have hw := registerWrite_header hs p (o := 0x024) (by decide) (by decide) v
  rw [writeHeader_scratch] at hw
  obtain ⟨t, ht, hp, hq, hr⟩ := next_updHdr hw
  have hu : t.unit ≠ .off := by
    rw [← hr] at hs
    exact hs
  refine ⟨t, ht, ?_, hq, ?_, hr⟩
  · rw [readReg_header hu p (by decide)]
    exact congrArg PageHdr.scratch hp
  · rw [hp]

/-- UM_PAGE_IEN and UM_PAGE_ERRCNT of a page. -/
theorem header_stores {s : State} (hs : s.unit ≠ .off) (v : Word) (p : PageId) :
    (∃ t, exec (.registerWrite (winOff p.toNat 0x014) v) s = .next t ∧
      vAt t.hdr p = { vAt s.hdr p with ien := v.extractLsb' 0 16 } ∧ (∀ q, q ≠ p → vAt t.hdr q = vAt s.hdr q) ∧
      { t with hdr := s.hdr } = s) ∧
    ∃ t, exec (.registerWrite (winOff p.toNat 0x020) v) s = .next t ∧
      vAt t.hdr p = { vAt s.hdr p with errCnt := v } ∧ (∀ q, q ≠ p → vAt t.hdr q = vAt s.hdr q) ∧ { t with hdr := s.hdr } = s := by
  constructor
  · refine next_updHdr (f := fun h => { h with ien := v.extractLsb' 0 16 }) ?_
    rw [registerWrite_header hs p (by decide) (by decide), writeHeader_ien]
  · refine next_updHdr (f := fun h => { h with errCnt := v }) ?_
    rw [registerWrite_header hs p (by decide) (by decide), writeHeader_errCnt]

/-- A write of a register that every unit state but OFF takes. -/
theorem registerWrite_takes {s t : State} {off : BitVec 16} {v : Word} (hs : s.unit ≠ .off) (ha : off.toNat % 4 = 0)
    (h : writeReg off v s = t) : exec (.registerWrite off v) s = .next t := by
  rw [exec_registerWrite hs ha, h]

/-- Settles O15: the reads by the parts for the status words and the other read-only registers, the writes by the rule of each register. -/
theorem headersNamePagesAndHoldScratch : Obligations.HeadersNamePagesAndHoldScratch := by
  unfold Obligations.HeadersNamePagesAndHoldScratch
  refine ⟨statusReads, infoReads, fun s p hs => readReg_pageId hs p, fun s p v hs => scratch_holds hs p v, ?reservedHeader,
    ?page5, fun s off m v hs h => (PlainReg.of_rwMask h).writesBack hs v, ?always, ?running, ?rwOpen⟩
  case reservedHeader =>
    intro s p k v hk
    refine exec_registerWrite_nothing (winOff_aligned _ _ (by omega)) ?_
    rw [writeReg_header p (by omega), writeHeader_reserved p hk]
  case page5 =>
    exact fun s k v hk => exec_registerWrite_nothing (winOff_aligned _ _ (by omega)) (writeReg_page5_reserved hk v s)
  case always =>
    exact fun s v hs => ⟨header_stores hs v,
      registerWrite_takes hs (by decide) (writeReg_exFmask v s), registerWrite_takes hs (by decide) (writeReg_exNan v s),
      registerWrite_takes hs (by decide) (writeReg_exOvf v s), registerWrite_takes hs (by decide) (writeReg_exSram v s),
      fun k hk => registerWrite_takes hs (winOff_aligned _ _ (by omega)) (writeReg_evCnt hk v s),
      registerWrite_takes hs (by decide) (writeReg_trLost v s)⟩
  case running =>
    intro s v h
    have hs := running_ne_off h
    exact ⟨fun g => next_updGuest (exec_stateWrite hs h (winOff_aligned _ _ (by omega)) (writeReg_wdog g v s)),
      exec_stateWrite hs h (by decide) (writeReg_ctSel v s), exec_stateWrite hs h (by decide) (writeReg_vsRange v s),
      exec_stateWrite hs h (by decide) (writeReg_vsPolicy v s), exec_stateWrite hs h (by decide) (writeReg_vsColdrd v s),
      exec_stateWrite hs h (by decide) (writeReg_vwXbase v s), exec_stateWrite hs h (by decide) (writeReg_smCfg v s),
      exec_stateWrite hs h (by decide) (writeReg_tsCtrl v s), exec_stateWrite hs h (by decide) (writeReg_tsConvThr v s),
      exec_stateWrite hs h (by decide) (writeReg_tsFnThr v s), exec_stateWrite hs h (by decide) (writeReg_tsSel v s),
      exec_stateWrite hs h (by decide) (writeReg_tsSaveBase v s), exec_stateWrite hs h (by decide) (writeReg_trCtrl v s)⟩
  case rwOpen =>
    intro s v h
    have ho := running_or_fault_iff.1 h
    have hs := rwOpen_ne_off ho
    exact ⟨⟨_, exec_stateWrite hs ho (by decide) (writeReg_pwCtrl v s), updReq_sprintEn s _⟩,
      exec_stateWrite hs ho (by decide) (writeReg_pwTthr v s), exec_stateWrite hs ho (by decide) (writeReg_pwRevCnt v s),
      exec_stateWrite hs ho (by decide) (writeReg_pwProto v s), exec_stateWrite hs ho (by decide) (writeReg_hlCwarn v s),
      exec_stateWrite hs ho (by decide) (writeReg_hlLowThr v s), exec_stateWrite hs ho (by decide) (writeReg_biSel v s),
      exec_stateWrite hs ho (by decide) (writeReg_twMisCnt v s), exec_stateWrite hs ho (by decide) (writeReg_twUncmp v s)⟩

end Sys2Proof.Machine
end

section
/-! ### Writes of one byte, bit by bit -/

namespace Sys2Proof.Machine

theorem touches_iff {l : ByteWrites} {a k : Nat} : touches l a k = true ↔ ∃ w ∈ l, w.1 = a ∧ w.2.1.getLsbD k = true := by
  simp [touches]

theorem touches_eq_false_iff {l : ByteWrites} {a k : Nat} :
    touches l a k = false ↔ ∀ w ∈ l, ¬(w.1 = a ∧ w.2.1.getLsbD k = true) := by
  simp [touches]

theorem byteAfter_append (x : Byte) (a : Nat) (l m : ByteWrites) : byteAfter x a (l ++ m) = byteAfter (byteAfter x a l) a m :=
  List.foldl_append

/-- The last write that touches a bit decides it. -/
theorem byteAfter_bit_last {x : Byte} {k : Nat} {l r : ByteWrites} {w : Nat × Byte × Byte} (hw : w.2.1.getLsbD k = true)
    (hr : touches r w.1 k = false) : (byteAfter x w.1 (l ++ w :: r)).getLsbD k = w.2.2.getLsbD k := by
  rw [byteAfter_append, show w :: r = [w] ++ r from rfl, byteAfter_append, byteAfter_bit_out r _ hr]
  simp [byteAfter, mergeByte_bit, hw]

/-- Writes of zeros clear the bits that they touch and leave the others. -/
theorem byteAfter_bit_zeros {a k : Nat} (l : ByteWrites) (x : Byte) (hl : ∀ w ∈ l, w.2.2 = 0) :
    (byteAfter x a l).getLsbD k = (x.getLsbD k && !touches l a k) := by
  unfold byteAfter
  induction l generalizing x with
  | nil => simp [touches]
  | cons w t ih =>
    have hd : touches (w :: t) a k = (w.1 == a && w.2.1.getLsbD k || touches t a k) := rfl
    simp only [List.foldl_cons]
    rw [ih _ fun y hy => hl y (List.mem_cons_of_mem _ hy), hd]
    by_cases e : w.1 = a
    · cases h : w.2.1.getLsbD k <;> simp [e, h, mergeByte_bit, hl w (List.mem_cons_self ..)]
    · simp [e, beq_false_of_ne e]

/-! ### The zeros of a merge (Table 1-9) -/

theorem zeroWrites_data {sp : Nat → Byte} {gs : List Nat} {w : Nat × Byte × Byte} (hw : w ∈ zeroWrites sp gs) : w.2.2 = 0 := by
  simp only [zeroWrites, List.mem_flatten, List.mem_map] at hw
  obtain ⟨_, ⟨g, _, rfl⟩, hw⟩ := hw
  obtain ⟨k, _, rfl⟩ := List.mem_map.1 hw
  rfl

/-- The zeros of a merge touch every bit of its groups but those to spare. -/
theorem touches_zeroWrites {sp : Nat → Byte} {gs : List Nat} {a k : Nat} (hk : k < 8) :
    touches (zeroWrites sp gs) a k = true ↔ a / 8 ∈ gs ∧ (sp a).getLsbD k = false := by
  rw [touches_iff]
  constructor
  · rintro ⟨w, hw, rfl, hb⟩
    refine ⟨zeroWrites_group hw, ?_⟩
    simp only [zeroWrites, List.mem_flatten, List.mem_map] at hw
    obtain ⟨_, ⟨g, _, rfl⟩, hw⟩ := hw
    obtain ⟨j, _, rfl⟩ := List.mem_map.1 hw
    simpa [hk] using hb
  · rintro ⟨hg, hs⟩
    refine ⟨(a, ~~~(sp a), 0), ?_, rfl, by rw [BitVec.getLsbD_not, hs]; simp [hk]⟩
    simp only [zeroWrites, List.mem_flatten, List.mem_map]
    refine ⟨_, ⟨a / 8, hg, rfl⟩, List.mem_map.2 ⟨a % 8, List.mem_range.2 (by omega), ?_⟩⟩
    simp [show 8 * (a / 8) + a % 8 = a by omega]

/-- A group is poisoned in a unit where one of its bytes lies in the group and the group's segment carries the mark. -/
theorem mem_poisonedGroups {s : State} {u : WUnit} {g : Nat} :
    g ∈ poisonedGroups s u ↔ g / 8 ∈ s.poison ∧ ∃ w ∈ u.bytes, w.1 / 8 = g := by
  simp [poisonedGroups, groupsOf, and_comm]

/-- The bits that the zeros of a unit clear: those of its poisoned groups that no earlier unit of the itinerary has written, but for a merged
group beside the itinerary's areas (log 19). -/
theorem touches_unitZeros {s : State} {u : WUnit} {a k : Nat} (hk : k < 8) :
    touches (zeroWrites (sparedBits s u.ctx) (poisonedGroups s u)) a k = true ↔
      a / 64 ∈ s.poison ∧ (∃ w ∈ u.bytes, w.1 / 8 = a / 8) ∧
      ¬(∃ c, s.ctx u.ctx = some c ∧ ∃ w ∈ c.covered, w.1 = a ∧ w.2.1.getLsbD k = true) ∧
      (a / 8 ∈ s.merged → ¬∀ c, s.ctx u.ctx = some c → ∀ x ∈ outAreas c.it, ¬(x.lo ≤ a ∧ a < x.hi)) := by
  rw [touches_zeroWrites hk, mem_poisonedGroups, Nat.div_div_eq_div_mul, ← Bool.not_eq_true, sparedBits_bit hk, not_or, not_and, and_assoc]

/-! ### A unit accepted (R13, R15, R19) -/

/-- The context of an itinerary after one of its units is accepted. -/
def acceptedCtx (s : State) (u : WUnit) (c : Ctx) : Ctx :=
  { c with before := replacedBytes s.mem (unitWrites s u) ++ c.before, covered := u.bytes ++ c.covered, progress := 0 }

theorem noteAccepted_eq (s : State) (u : WUnit) :
    noteAccepted s u = s.setCtx u.ctx ((s.ctx u.ctx).map fun c => { c with covered := u.bytes ++ c.covered, progress := 0 }) := by
  unfold noteAccepted
  rcases h : s.ctx u.ctx with _ | c
  · cases hb : u.ctx <;> (rw [hb] at h; cases s; cases h; rfl)
  · rfl

@[simp] theorem acceptUnit_mem (s : State) (u : WUnit) : (acceptUnit s u).mem = putBytes s.mem (unitWrites s u) := by
  simp [acceptUnit, noteAccepted_eq]

@[simp] theorem acceptUnit_merged (s : State) (u : WUnit) : (acceptUnit s u).merged = poisonedGroups s u ++ s.merged := by
  simp [acceptUnit, noteAccepted_eq]

@[simp] theorem acceptUnit_wfifo (s : State) (u : WUnit) : (acceptUnit s u).wfifo = s.wfifo := by
  simp [acceptUnit, noteAccepted_eq]

theorem acceptUnit_ctx_self (s : State) (u : WUnit) : (acceptUnit s u).ctx u.ctx = (s.ctx u.ctx).map (acceptedCtx s u) := by
  cases hb : u.ctx <;> simp [acceptUnit, noteAccepted_eq, State.guardReads, State.ctx, State.setCtx, hb, Function.comp_def] <;> rfl

theorem acceptUnit_ctx_other (s : State) (u : WUnit) {b : Bool} (h : b ≠ u.ctx) :
    (acceptUnit s u).ctx b = (s.ctx b).map fun c => { c with before := replacedBytes s.mem (unitWrites s u) ++ c.before } := by
  obtain rfl : b = !u.ctx := Bool.eq_not_of_ne h
  simp only [acceptUnit, noteAccepted_eq, State.setCtx_ctx_not]
  exact State.guardReads_ctx ..

/-- What a unit's acceptance leaves alone. -/
theorem acceptUnit_frame (s : State) (u : WUnit) :
    { acceptUnit s u with mem := s.mem, merged := s.merged, wfifo := s.wfifo, ctx0 := s.ctx0, ctx1 := s.ctx1 } = s := by
  simp only [acceptUnit, noteAccepted_eq]
  cases u.ctx <;> rfl

/-- A unit changes no byte outside its 8-byte groups. -/
theorem acceptUnit_byte_out {s : State} {u : WUnit} {a : Nat} (h : ∀ w ∈ u.bytes, w.1 / 8 ≠ a / 8) :
    memByte (acceptUnit s u).mem a = memByte s.mem a := by
  rw [acceptUnit_mem]
  refine memByte_putBytes_out _ fun w hw e => ?_
  rcases unitWrites_mem hw with hw | hw
  · exact h w hw (by rw [e])
  · obtain ⟨-, x, hx, e'⟩ := mem_poisonedGroups.1 hw
    exact h x hx (by rw [e', e])

/-- Each bit that a unit names takes its last value there. -/
theorem acceptUnit_bit_named {s : State} {u : WUnit} {k : Nat} {l r : ByteWrites} {w : Nat × Byte × Byte} (hm : MemInv s)
    (hu : u.bytes = l ++ w :: r) (hw : w.2.1.getLsbD k = true) (hr : touches r w.1 k = false) :
    (memByte (acceptUnit s u).mem w.1).getLsbD k = w.2.2.getLsbD k := by
  rw [acceptUnit_mem, memByte_putBytes _ _ hm, unitWrites, hu, ← List.append_assoc]
  exact byteAfter_bit_last hw hr

/-- A bit that a unit does not name is cleared where it lies in a poisoned group and is not spared; otherwise it stays. -/
theorem acceptUnit_bit_unnamed {s : State} {u : WUnit} {a k : Nat} (hm : MemInv s) (hu : touches u.bytes a k = false) :
    (memByte (acceptUnit s u).mem a).getLsbD k =
      ((memByte s.mem a).getLsbD k && !touches (zeroWrites (sparedBits s u.ctx) (poisonedGroups s u)) a k) := by
  rw [acceptUnit_mem, memByte_putBytes _ _ hm, unitWrites, byteAfter_append, byteAfter_bit_out _ _ hu,
    byteAfter_bit_zeros _ _ fun w hw => zeroWrites_data hw]

/-- What an itinerary reads is the same before and after a unit's acceptance, when its context remembers what the unit replaced. -/
theorem acceptUnit_readView {s : State} {u : WUnit} {c d : Ctx} (hm : MemInv s)
    (hd : d.before = replacedBytes s.mem (unitWrites s u) ++ c.before) (a : Nat) :
    memByte (readView (acceptUnit s u) d) a = memByte (readView s c) a := by
  rw [← guardReads_readView s (unitWrites s u) c a hm]
  simp only [readView, hd, acceptUnit_mem]

theorem acceptUnit_readsStay (s : State) (u : WUnit) {b : Bool} (h : b ≠ u.ctx) : ReadsStay s (acceptUnit s u) b := by
  refine ⟨fun e => by simp [acceptUnit_ctx_other s u h, e], fun c hc =>
    ⟨{ c with before := replacedBytes s.mem (unitWrites s u) ++ c.before }, ?_, rfl, fun hm => acceptUnit_readView hm rfl⟩⟩
  rw [acceptUnit_ctx_other s u h, hc, Option.map_some]

/-! ### The command -/

theorem writeAccept_full {s : State} {u : WUnit} {rest : List WUnit} (hq : s.wfifo = u :: rest) (hf : twinFull s = true) :
    exec .writeAccept s = .next s := by
  simp [exec, execWriteAccept, hq, hf]

theorem writeAccept_accepts {s : State} {u : WUnit} {rest : List WUnit} (hq : s.wfifo = u :: rest) (hf : twinFull s = false)
    (hin : ∀ w ∈ u.bytes, w.1 < 0x3000000) : exec .writeAccept s = .next (acceptUnit { s with wfifo := rest } u) := by
  have hall : (u.bytes.all fun w => decide (w.1 < scratchSize)) = true :=
    List.all_eq_true.2 fun w hw => decide_eq_true (hin w hw)
  simp only [exec, execWriteAccept, hq, hf, hall, Bool.false_eq_true, if_false, if_true]

/-- Settles O56: the effect of the accepted unit bit by bit, from the writes that the unit's acceptance makes. -/
theorem acceptedUnitsWriteTheirBytes : Obligations.AcceptedUnitsWriteTheirBytes := by
  intro s u rest hq
  refine ⟨writeAccept_full hq, fun hf hin => ⟨_, writeAccept_accepts hq hf hin, acceptUnit_wfifo _ _, ?_, ?_, ?_, ?_, ?_, ?_, ?_⟩⟩
  · exact fun a h => acceptUnit_byte_out h
  · intro hm a k hk
    have hm' : MemInv { s with wfifo := rest } := hm
    refine ⟨?_, fun hno => ?_⟩
    · rintro l w r hu ⟨rfl, hw⟩ hr
      exact acceptUnit_bit_named hm' hu hw (touches_eq_false_iff.2 hr)
    · have hz := touches_unitZeros (s := { s with wfifo := rest }) (u := u) (a := a) hk
      have hb := acceptUnit_bit_unnamed hm' (touches_eq_false_iff.2 hno)
      exact ⟨fun h => by simp only [hb, hz.2 h, Bool.not_true, Bool.and_false],
        fun h => by simp only [hb, Bool.eq_false_iff.2 (mt hz.1 h), Bool.not_false, Bool.and_true]⟩
  · intro g
    rw [acceptUnit_merged, List.mem_append, mem_poisonedGroups]
    exact or_comm
  · exact fun b hb => acceptUnit_readsStay { s with wfifo := rest } u hb
  · intro c hc
    refine ⟨acceptedCtx { s with wfifo := rest } u c, ?_, rfl, rfl, rfl, fun hm => acceptUnit_readView (s := { s with wfifo := rest }) hm rfl⟩
    rw [acceptUnit_ctx_self]
    exact congrArg (Option.map _) hc
  · intro hc
    rw [acceptUnit_ctx_self]
    exact congrArg (Option.map _) hc
  · have := acceptUnit_frame { s with wfifo := rest } u
    exact congrArg (fun t : State => { t with wfifo := s.wfifo }) this

end Sys2Proof.Machine
end
